-- ==== Sys2Proof/Word.lean ====
section
/-! DEFINITION. The word types of the block (spec 00_scope.md R6, R7): a command, a response and a CRC register
are 16 bits, a frame byte or character 8 bits, a hex digit 4 bits. All values are unsigned. -/

namespace Sys2Proof

/-- A command word, a response word or a CRC register (R6: 16 bits). -/
abbrev Word := BitVec 16

/-- A frame byte or a character code (R6: 8 bits). -/
abbrev Byte := BitVec 8

/-- Half a byte: one hex digit, or an index of VEC_READ (R25, R75). -/
abbrev Nibble := BitVec 4

end Sys2Proof
end

