-- ==== Sys2Proof/Config.lean ====
section
/-! DEFINITION. The fixed parameters of spec 00_scope.md R6, and the host-side texts that the spec leaves open
(93_implementation_defined.md I2, I3), which are opaque: nothing can be proved about their value. -/

namespace Sys2Proof

/-- `CRC_INIT` (R6): the initial value of both CRC registers. -/
def Config.crcInit : Word := 0xFFFF#16

/-- `CRC_POLY_R` (R6): the reflected polynomial constant. -/
def Config.crcPoly : Word := 0xA001#16

/-- `HEADER` (R6, R35): bytes 0 to 5 of a classifiable frame. -/
def Config.header : List Byte := [0x5A#8, 0x02#8, 0x7E#8, 0x00#8, 0x04#8, 0x08#8]

/-- `MIN_VERIFY_LEN` (R6): `verifyChecksum` is false below it. -/
abbrev Config.minVerifyLen : Nat := 3

/-- `MIN_FRAME_LEN` (R6). -/
abbrev Config.minFrameLen : Nat := 14

/-- `LEN_MAX` (R6): the value at which `LEN` saturates. -/
abbrev Config.lenMax : Nat := 15

/-- `N_VECTORS` (R6). -/
abbrev Config.nVectors : Nat := 5

/-- `VEC_LEN` (R6). -/
abbrev Config.vecLen : Nat := 14

/-- `CMD_NAME[k]` for `k` = 2 to 5 (R176, I2): host data that no source gives. -/
opaque Config.cmdName : Nat → String

/-- The text `<detail>` of "hex decode error: <detail>" for each `DEC_DETAIL` code (R151, I3): any text. -/
opaque Config.decodeDetail : Nat → String

end Sys2Proof
end

