-- ==== Sys2Proof/Syntax.lean ====
section
/-! DEFINITION. The commands of CIF-1: one constructor of `Instr` per row of spec/opcode_table.json (30_encoding.md
R72), the outcome of decoding, and the lines of the assembler with its pseudo-instructions (R81, R82). -/

namespace Sys2Proof

/-- The input mode of a frame (10_state.md R23, operand `m` of FRAME_START, R74). -/
inductive Mode where
  /-- `m = 0`: FRAME_BYTE delivers decoded bytes. -/
  | byte
  /-- `m = 1`: FRAME_CHAR delivers hex-text characters. -/
  | text
  deriving DecidableEq, Repr

/-- The commands: one constructor per row of R72. The operand types have the widths of the encoding, so every term
has an encoding. -/
inductive Instr where
  /-- NOP, R200. -/
  | nop
  /-- CRC_INIT, R110. -/
  | crcInit
  /-- CRC_BYTE, R111: the byte `d`. -/
  | crcByte (d : Byte)
  /-- CRC_READ, R112. -/
  | crcRead
  /-- FRAME_START, R131: the mode `m`. -/
  | frameStart (m : Mode)
  /-- FRAME_BYTE, R135: the byte `d`. -/
  | frameByte (d : Byte)
  /-- FRAME_CHAR, R137: the character code `c`. -/
  | frameChar (c : Byte)
  /-- FRAME_END, R145. -/
  | frameEnd
  /-- RESULT_READ, R150. -/
  | resultRead
  /-- VEC_READ, R182: the vector index `i` and the item index `j`. -/
  | vecRead (i j : Nibble)
  /-- STATUS_READ, R202. -/
  | statusRead
  /-- CLEAR_ERR, R203. -/
  | clearErr
  /-- The reserved row, `OP` 0xC to 0xF, R204: the other 14 bits are `x`. -/
  | reserved (x : BitVec 14)
  deriving DecidableEq, Repr

/-- Why a word with `OP` below 0xC is no command (R76). -/
inductive IllegalWord where
  /-- A bit of `SUB` is set that the command does not use (R76; for FRAME_START `w[11:9]`). -/
  | nonzeroSub
  /-- `DATA` is not 0 in a command that takes no operand (R76). -/
  | nonzeroData
  deriving DecidableEq, Repr

/-- What decoding a word gives (R79). -/
inductive Decoded where
  /-- A row of R72 matches. -/
  | ok (i : Instr)
  /-- No row of R72 matches: the word is illegal for the reason given. -/
  | illegal (why : IllegalWord)
  deriving DecidableEq, Repr

/-- One line of an assembler program (R81, R82). Operands are numbers as written, not yet range-checked. -/
inductive AsmLine where
  | nop
  | crcInit
  | crcByte (d : Nat)
  | crcRead
  | frameStart (m : Mode)
  | frameByte (d : Nat)
  /-- `frame.char <c>` with `<c>` a number. -/
  | frameChar (c : Nat)
  /-- `frame.char 'c'`: a quoted character, by its code. -/
  | frameCharQuoted (c : Nat)
  | frameEnd
  | resultRead
  | vecRead (i j : Nat)
  | statusRead
  | errClear
  /-- Pseudo-instruction `crc.compute b0, ..., bn-1` (R82). -/
  | crcCompute (bs : List Nat)
  /-- Pseudo-instruction `frame.bytes b0, ..., bn-1` (R82). -/
  | frameBytes (bs : List Nat)
  /-- Pseudo-instruction `verify b0, ..., bn-1` (R82). -/
  | verify (bs : List Nat)
  /-- Pseudo-instruction `classify "<text>"` (R82): the codes of the text's characters. -/
  | classify (text : List Nat)
  /-- Pseudo-instruction `classify.bytes b0, ..., bn-1` (R82). -/
  | classifyBytes (bs : List Nat)
  /-- Pseudo-instruction `vec.frame <i>` (R82). -/
  | vecFrame (i : Nat)
  deriving DecidableEq, Repr

end Sys2Proof
end

