-- ==== Sys2Proof/WellFormed.lean ====
section
/-! DEFINITION. Well-formedness. An `Instr` carries the widths of its operands in its type, so the one check left is
whether it is a LEGAL command (30_encoding.md R76: a row of R72 other than the reserved one). A line of the assembler has
operands as written, whose ranges R81 and R82 fix. -/

namespace Sys2Proof

/-- The command is legal: its row of R72 is not the reserved one (R76). -/
def Instr.legal : Instr → Bool
  | .nop => true
  | .crcInit => true
  | .crcByte _ => true
  | .crcRead => true
  | .frameStart _ => true
  | .frameByte _ => true
  | .frameChar _ => true
  | .frameEnd => true
  | .resultRead => true
  | .vecRead _ _ => true
  | .statusRead => true
  | .clearErr => true
  | .reserved _ => false

/-- A byte or character number is in range (R81). DESIGN CHOICE (log entry 12): the range is that of the 8-bit field. -/
def byteInRange (n : Nat) : Bool := n < 256

/-- An index operand of `vec.read` or `vec.frame` is in range (R81). DESIGN CHOICE (log entry 12): the range is that of the 4-bit
field, since R75 calls `i` of 5 or more a well-formed encoding that is refused at execution. -/
def indexInRange (n : Nat) : Bool := n < 16

/-- A quoted character, or a character of a text, is an ASCII code: above 0x7F it cannot be assembled (R82). -/
def asciiInRange (n : Nat) : Bool := n < 128

/-- Every operand of the line is in range (R81, R82); an out-of-range operand is an assembly error. -/
def AsmLine.wf : AsmLine → Bool
  | .nop => true
  | .crcInit => true
  | .crcByte d => byteInRange d
  | .crcRead => true
  | .frameStart _ => true
  | .frameByte d => byteInRange d
  | .frameChar c => byteInRange c
  | .frameCharQuoted c => asciiInRange c
  | .frameEnd => true
  | .resultRead => true
  | .vecRead i j => indexInRange i && indexInRange j
  | .statusRead => true
  | .errClear => true
  | .crcCompute bs => bs.all byteInRange
  | .frameBytes bs => bs.all byteInRange
  | .verify bs => bs.all byteInRange
  | .classify text => text.all asciiInRange
  | .classifyBytes bs => bs.all byteInRange
  | .vecFrame i => indexInRange i

end Sys2Proof
end

