-- ==== Sys2Proof/Decode.lean ====
section
/-! DEFINITION. Decoding and encoding of command words (30_encoding.md R70 to R80): the field helpers, the decoder
(total on all words), the encoder written from the patterns of R72, and R72 itself as a table of masks. -/

namespace Sys2Proof

/-- `OP = w[15:12]` (R71). -/
def opField (w : Word) : Nibble := w.extractLsb' 12 4

/-- `SUB = w[11:8]` (R71). -/
def subField (w : Word) : Nibble := w.extractLsb' 8 4

/-- `DATA = w[7:0]` (R71, R73). -/
def dataField (w : Word) : Byte := w.extractLsb' 0 8

/-- `w[11:9]`, which must be 0 in FRAME_START (R74). -/
def startReserved (w : Word) : BitVec 3 := w.extractLsb' 9 3

/-- `m = w[8]` (R74): 0 is BYTE, 1 is TEXT. -/
def modeField (w : Word) : Mode := if w.getLsbD 8 then .text else .byte

/-- `i = w[7:4]` (R75). -/
def iField (w : Word) : Nibble := w.extractLsb' 4 4

/-- `j = w[3:0]` (R75). -/
def jField (w : Word) : Nibble := w.extractLsb' 0 4

/-- A command that takes no operand: `SUB` and `DATA` must be 0 (R76, R79). -/
def decodePlain (w : Word) (i : Instr) : Decoded :=
  if subField w ≠ 0 then .illegal .nonzeroSub
  else if dataField w ≠ 0 then .illegal .nonzeroData
  else .ok i

/-- A command whose operand is all of `DATA`: `SUB` must be 0 (R76, R79). -/
def decodeData (w : Word) (i : Instr) : Decoded :=
  if subField w ≠ 0 then .illegal .nonzeroSub else .ok i

/-- FRAME_START: `w[11:9]` and `DATA` must be 0 (R74, R76, R79). -/
def decodeStart (w : Word) : Decoded :=
  if startReserved w ≠ 0 then .illegal .nonzeroSub
  else if dataField w ≠ 0 then .illegal .nonzeroData
  else .ok (.frameStart (modeField w))

/-- The decode step of R79, total on all 65,536 words. `OP` 0xC to 0xF is the reserved row of R72, whose meaning is the
refusal ILLEGAL (R204). -/
def decode (w : Word) : Decoded :=
  match (opField w).toNat with
  | 0x0 => decodePlain w .nop
  | 0x1 => decodePlain w .crcInit
  | 0x2 => decodeData w (.crcByte (dataField w))
  | 0x3 => decodePlain w .crcRead
  | 0x4 => decodeStart w
  | 0x5 => decodeData w (.frameByte (dataField w))
  | 0x6 => decodeData w (.frameChar (dataField w))
  | 0x7 => decodePlain w .frameEnd
  | 0x8 => decodePlain w .resultRead
  | 0x9 => decodeData w (.vecRead (iField w) (jField w))
  | 0xA => decodePlain w .statusRead
  | 0xB => decodePlain w .clearErr
  | _ => .ok (.reserved (w.extractLsb' 0 14))

/-- The word is legal (R76): it decodes to a command of a row other than the reserved one. -/
def legalWord (w : Word) : Bool :=
  match decode w with
  | .ok i => i.legal
  | .illegal _ => false

/-- Bit `m` of FRAME_START (R74). -/
def Mode.bit : Mode → Word
  | .byte => 0
  | .text => 1

/-- The word of a command, from the patterns of R72. -/
def encode : Instr → Word
  | .nop => 0x0000#16
  | .crcInit => 0x1000#16
  | .crcByte d => 0x2000#16 ||| d.setWidth 16
  | .crcRead => 0x3000#16
  | .frameStart m => 0x4000#16 ||| (m.bit <<< 8)
  | .frameByte d => 0x5000#16 ||| d.setWidth 16
  | .frameChar c => 0x6000#16 ||| c.setWidth 16
  | .frameEnd => 0x7000#16
  | .resultRead => 0x8000#16
  | .vecRead i j => 0x9000#16 ||| (i.setWidth 16 <<< 4) ||| j.setWidth 16
  | .statusRead => 0xA000#16
  | .clearErr => 0xB000#16
  | .reserved x => 0xC000#16 ||| x.setWidth 16

/-- The opcode map of R72: each row's match, mask, and whether it is a command (all but the last row are). -/
def opcodeRows : List (Word × Word × Bool) :=
  [(0x0000#16, 0xFFFF#16, true), (0x1000#16, 0xFFFF#16, true), (0x2000#16, 0xFF00#16, true),
   (0x3000#16, 0xFFFF#16, true), (0x4000#16, 0xFEFF#16, true), (0x5000#16, 0xFF00#16, true),
   (0x6000#16, 0xFF00#16, true), (0x7000#16, 0xFFFF#16, true), (0x8000#16, 0xFFFF#16, true),
   (0x9000#16, 0xFF00#16, true), (0xA000#16, 0xFFFF#16, true), (0xB000#16, 0xFFFF#16, true),
   (0xC000#16, 0xC000#16, false)]

/-- The word matches a row of R72: `(w & mask) == match`. -/
def rowMatches (r : Word × Word × Bool) (w : Word) : Bool := (w &&& r.2.1) == r.1

/-- The command word the host's table numbers as `w`: every command is one 16-bit word (R70), and every bit above
`nbits` is 0. -/
def tableWord (nbits w : Nat) : Word := BitVec.ofNat 16 (w % 2 ^ nbits)

/-- The instruction the decoder reads from a row of spec/opcode_table.json. -/
def decodeTableWord (nbits w : Nat) : Option Instr :=
  match decode (tableWord nbits w) with
  | .ok i => some i
  | .illegal _ => none

end Sys2Proof
end

