-- ==== Sys2Proof/Machine/State.lean ====
section
/-! DEFINITION. The state of the block (spec 10_state.md): every register of R22 to R31 under its own name, each with a
type that holds exactly the values the spec lets it hold (93_implementation_defined.md I4), and the two sides of the
command port (30_encoding.md R70, R78): what the host will still deliver, and the responses it has been given. The block
has no memory, no program counter and no general registers (R20, R21, 20_memory.md R50). -/

namespace Sys2Proof.Machine

/-- `PHASE` (R24); the value 3 is never held. -/
inductive Phase where
  /-- 0: no frame started since reset. -/
  | idle
  /-- 1: a frame is open. -/
  | collect
  /-- 2: the last frame has been finished by FRAME_END. -/
  | done
  deriving DecidableEq, Repr

/-- `DEC_ERR` and `RES.DEC_DETAIL` (R25, R33); the value 3 is never held. -/
inductive DecErr where
  /-- 0. -/
  | none
  /-- 1: NON_HEX. -/
  | nonHex
  /-- 2: ODD_LENGTH. -/
  | oddLength
  deriving DecidableEq, Repr

/-- `ERR_CAUSE` (R31, 60_exceptions.md R221); the values 5 to 7 are never held. -/
inductive ErrCause where
  /-- 0: NONE. -/
  | none
  /-- 1: ILLEGAL, the word is illegal. -/
  | illegal
  /-- 2: SEQUENCE, `PHASE` is not COLLECT. -/
  | sequence
  /-- 3: MODE, a data command of the other mode. -/
  | mode
  /-- 4: VEC_RANGE, `i` of VEC_READ is 5 or more. -/
  | vecRange
  deriving DecidableEq, Repr

/-- `RES.OUTCOME` (R33, R223); 6 and 7 are never written. -/
inductive FrameOutcome where
  /-- 0: NONE, no result yet. -/
  | none
  /-- 1: DECODE_ERROR. -/
  | decodeError
  /-- 2: LENGTH_ERROR. -/
  | lengthError
  /-- 3: CHECKSUM_ERROR. -/
  | checksumError
  /-- 4: RECOGNIZED. -/
  | recognized
  /-- 5: UNRECOGNIZED. -/
  | unrecognized
  deriving DecidableEq, Repr

/-- `RES.CMD`, the CommandType (R33, 42_matcher.md R171); 6 and 7 are never produced. -/
inductive CommandType where
  /-- 0. -/
  | unknown
  /-- 1. -/
  | allRise
  /-- 2. -/
  | allDescend
  /-- 3. -/
  | allStop
  /-- 4. -/
  | shortFormationRise
  /-- 5. -/
  | reconnectedTrainRise
  deriving DecidableEq, Repr

/-- `RES` by its fields (R33); `Result.word` in Machine/Flags.lean is the 16-bit word. -/
structure Result where
  /-- bits 2:0. -/
  outcome : FrameOutcome
  /-- bit 3. -/
  chkValid : Bool
  /-- bits 6:4. -/
  cmd : CommandType
  /-- bit 7. -/
  verify : Bool
  /-- bits 9:8. -/
  decDetail : DecErr
  /-- bit 10. -/
  hdrMatch : Bool
  deriving DecidableEq, Repr

/-- What can arrive at the block between two commands: the host's next command word (30_encoding.md R70), or reset
(70_reset_and_hazards.md R250: applied between commands, never during one). -/
inductive PortEvent where
  | command (w : Word)
  | reset
  deriving DecidableEq, Repr

/-- The state. `port` and `resps` are the model's own fields (log entries 1 and 3); the others are the spec's registers. -/
structure State where
  /-- `ACC`, 16 bits (R22). -/
  acc : Word
  /-- `MODE`, 1 bit (R23). -/
  mode : Mode
  /-- `PHASE`, 2 bits (R24). -/
  phase : Phase
  /-- `FCRC`, 16 bits (R25). -/
  fcrc : Word
  /-- `H1`, 8 bits (R25): the second most recent frame byte. -/
  h1 : Byte
  /-- `H0`, 8 bits (R25): the most recent frame byte. -/
  h0 : Byte
  /-- `LEN`, 4 bits (R25, R27): saturates at 15. -/
  len : Nibble
  /-- `HDR_OK`, 1 bit (R25). -/
  hdrOk : Bool
  /-- `T6`, 8 bits (R25). -/
  t6 : Byte
  /-- `T7`, 8 bits (R25). -/
  t7 : Byte
  /-- `T8`, 8 bits (R25). -/
  t8 : Byte
  /-- `NIB_PEND`, 1 bit (R25). -/
  nibPend : Bool
  /-- `NIB`, 4 bits (R25). -/
  nib : Nibble
  /-- `DEC_ERR`, 2 bits (R25). -/
  decErr : DecErr
  /-- `RES`, 16 bits (R29, R33). -/
  res : Result
  /-- `OP_ERR`, 1 bit, sticky (R30). -/
  opErr : Bool
  /-- `ERR_CAUSE`, 3 bits (R31). -/
  errCause : ErrCause
  /-- The host's events still to come, oldest first. -/
  port : List PortEvent
  /-- The response words returned so far, oldest first. -/
  resps : List Word
  deriving DecidableEq, Repr

/-- A step never faults: the block has no traps, and every word in any state has a defined next state (R153, R220). -/
inductive Fault where
  deriving DecidableEq, Repr

/-- Why a step has no meaning. A command that the SPEC calls refused is not one of these: it is a next state (R222). -/
inductive Refusal where
  /-- An arm of `exec` whose instruction has no meaning yet (safe: the run stops). No arm raises it. -/
  | notModelled (mnemonic : String)
  deriving DecidableEq, Repr

/-- `RES = 0x0000`: OUTCOME NONE and every field 0 (R29, R131). -/
def Result.cleared : Result :=
  { outcome := .none, chkValid := false, cmd := .unknown, verify := false, decDetail := .none, hdrMatch := false }

/-- The machine right after reset (R37, R250); nothing is pending at the port and no response has been given. -/
def State.reset : State :=
  { acc := 0xFFFF#16, mode := .byte, phase := .idle, fcrc := 0xFFFF#16, h1 := 0, h0 := 0, len := 0, hdrOk := true,
    t6 := 0, t7 := 0, t8 := 0, nibPend := false, nib := 0, decErr := .none, res := Result.cleared, opErr := false,
    errCause := .none, port := [], resps := [] }

end Sys2Proof.Machine
end

