-- ==== Sys2Proof/Machine/Crc.lean ====
section
/-! DEFINITION. The CRC functions of spec 40_checksum.md section 1: the byte step both CRC registers use (R101), and the
source's functions on byte sequences (R102 to R104), which the commands must reproduce. -/

namespace Sys2Proof.Machine

/-- One of the eight iterations of R101: a logical right shift, and the exclusive-or with 0xA001 when bit 0 was 1. -/
def crcShift (r : Word) : Word :=
  if r.getLsbD 0 then (r >>> 1) ^^^ Config.crcPoly else r >>> 1

/-- `n` iterations of `crcShift`. -/
def crcShifts : Nat → Word → Word
  | 0, r => r
  | n + 1, r => crcShifts n (crcShift r)

/-- `crc_step(r, d)` (R101): the byte enters bits 7:0, then eight iterations. -/
def crcStep (r : Word) (d : Byte) : Word :=
  crcShifts 8 (r ^^^ d.setWidth 16)

/-- `crc(bs)` (R102). -/
def crc (bs : List Byte) : Word :=
  bs.foldl crcStep Config.crcInit

/-- `v[15:8]` of a 16-bit word. -/
def hiByte (w : Word) : Byte := w.extractLsb' 8 8

/-- `v[7:0]` of a 16-bit word. -/
def loByte (w : Word) : Byte := w.extractLsb' 0 8

/-- `computeChecksum(bs)` (R103): big-endian, the high byte first. -/
def computeChecksum (bs : List Byte) : Byte × Byte :=
  (hiByte (crc bs), loByte (crc bs))

/-- `verifyChecksum(fb)` (R104): false below 3 bytes; otherwise the checksum of all bytes but the last two is compared
byte for byte with those two. -/
def verifyChecksum (fb : List Byte) : Bool :=
  if fb.length < Config.minVerifyLen then false
  else
    let n := fb.length
    let c := computeChecksum (fb.take (n - 2))
    c.1 == fb.getD (n - 2) 0 && c.2 == fb.getD (n - 1) 0

end Sys2Proof.Machine
end

