-- ==== Sys2Proof/Machine/Operands.lean ====
section
/-! DEFINITION. The operand forms of the commands: character classes and hex digits (41_frame.md R138), the joining of
nibbles and bytes (R137, R146), the zero extension of a byte into a response (20_memory.md R54), and the vector ROM that
VEC_READ indexes (42_matcher.md R180, R181). -/

namespace Sys2Proof.Machine

/-- `hexval(c)` (R138): the digit of a hex character, in either case; none for the space and every non-hex code. -/
def hexval (c : Byte) : Option Nibble :=
  if 0x30 ≤ c.toNat ∧ c.toNat ≤ 0x39 then some ((c - 0x30#8).setWidth 4)
  else if 0x41 ≤ c.toNat ∧ c.toNat ≤ 0x46 then some ((c - 0x37#8).setWidth 4)
  else if 0x61 ≤ c.toNat ∧ c.toNat ≤ 0x66 then some ((c - 0x57#8).setWidth 4)
  else none

/-- The one code that is a space (R138, R140). -/
def spaceCode : Byte := 0x20#8

/-- `{hi, lo}` of two hex digits: the first is the high nibble (20_memory.md R53). -/
def joinNibbles (hi lo : Nibble) : Byte := hi ++ lo

/-- `{hi, lo}` of two bytes. -/
def joinBytes (hi lo : Byte) : Word := hi ++ lo

/-- `zext_16(b)`: a byte-valued response in bits 7:0 (20_memory.md R54). -/
def zext16 (b : Byte) : Word := b.setWidth 16

/-- The five frames of the vector ROM (R180). -/
def vectors : List (List Byte) :=
  [[0x5A#8, 0x02#8, 0x7E#8, 0x00#8, 0x04#8, 0x08#8, 0xF1#8, 0x03#8, 0x02#8, 0x01#8, 0x80#8, 0xA5#8, 0x6D#8, 0xFC#8],
   [0x5A#8, 0x02#8, 0x7E#8, 0x00#8, 0x04#8, 0x08#8, 0xF1#8, 0x03#8, 0x01#8, 0x01#8, 0x7F#8, 0xA5#8, 0xD9#8, 0xBD#8],
   [0x5A#8, 0x02#8, 0x7E#8, 0x00#8, 0x04#8, 0x08#8, 0xF1#8, 0x03#8, 0x03#8, 0x01#8, 0x81#8, 0xA5#8, 0x01#8, 0xFC#8],
   [0x5A#8, 0x02#8, 0x7E#8, 0x00#8, 0x04#8, 0x08#8, 0xD1#8, 0x03#8, 0x02#8, 0x01#8, 0x60#8, 0xA5#8, 0xCD#8, 0xB2#8],
   [0x5A#8, 0x02#8, 0x7E#8, 0x00#8, 0x04#8, 0x08#8, 0xE1#8, 0x03#8, 0x02#8, 0x01#8, 0x70#8, 0xA5#8, 0xFD#8, 0xBA#8]]

/-- Vector `i` of the ROM; the empty frame where there is none (VEC_READ refuses such an `i` before it reads, R182). -/
def vector (i : Nibble) : List Byte := vectors.getD i.toNat []

/-- `VecRom(i, j)` (R181): items 0 to 13 are the frame, 14 is the command code, 15 the length. -/
def vecRom (i j : Nibble) : Byte :=
  if j.toNat ≤ 13 then (vector i).getD j.toNat 0
  else if j.toNat = 14 then i.setWidth 8 + 1
  else BitVec.ofNat 8 Config.vecLen

/-- The codes of `DEC_ERR` (R25). -/
def DecErr.code : DecErr → Word
  | .none => 0
  | .nonHex => 1
  | .oddLength => 2

/-- The codes of `PHASE` (R24). -/
def Phase.code : Phase → Word
  | .idle => 0
  | .collect => 1
  | .done => 2

/-- The codes of `ERR_CAUSE` (R221). -/
def ErrCause.code : ErrCause → Word
  | .none => 0
  | .illegal => 1
  | .sequence => 2
  | .mode => 3
  | .vecRange => 4

/-- The codes of `RES.OUTCOME` (R33). -/
def FrameOutcome.code : FrameOutcome → Word
  | .none => 0
  | .decodeError => 1
  | .lengthError => 2
  | .checksumError => 3
  | .recognized => 4
  | .unrecognized => 5

/-- The codes of `RES.CMD` (R171). -/
def CommandType.code : CommandType → Word
  | .unknown => 0
  | .allRise => 1
  | .allDescend => 2
  | .allStop => 3
  | .shortFormationRise => 4
  | .reconnectedTrainRise => 5

/-- One bit as a word. -/
def bitWord (b : Bool) : Word := if b then 1 else 0

end Sys2Proof.Machine
end

