-- ==== Sys2Proof/Machine/Flags.lean ====
section
/-! DEFINITION. Every flag and status computation: the words of RES and STATUS (10_state.md R32, R33), the checksum and
header flags of a frame, the matcher (42_matcher.md R172, R173) and the result of a frame (41_frame.md R146). -/

namespace Sys2Proof.Machine

/-- `RES` as the 16-bit word of R33; bits 15:11 are 0. -/
def Result.word (r : Result) : Word :=
  r.outcome.code ||| (bitWord r.chkValid <<< 3) ||| (r.cmd.code <<< 4) ||| (bitWord r.verify <<< 7)
    ||| (r.decDetail.code <<< 8) ||| (bitWord r.hdrMatch <<< 10)

/-- `STATUS` (R32), the word of STATUS_READ (R202); bit 15 is 0. -/
def statusWord (s : State) : Word :=
  s.phase.code ||| (s.mode.bit <<< 2) ||| (bitWord s.opErr <<< 3) ||| (s.errCause.code <<< 4)
    ||| (bitWord s.nibPend <<< 7) ||| (s.len.setWidth 16 <<< 8) ||| (s.decErr.code <<< 12) ||| (bitWord s.hdrOk <<< 14)

/-- `v` of R146: `verifyChecksum` of the frame's bytes, from the delay line (R134). -/
def frameVerify (s : State) : Bool :=
  decide (Config.minVerifyLen ≤ s.len.toNat) && s.fcrc == joinBytes s.h1 s.h0

/-- `hdr` of R146: at least 6 bytes, and bytes 0 to 5 equal HEADER. -/
def frameHeader (s : State) : Bool :=
  s.hdrOk && decide (6 ≤ s.len.toNat)

/-- The command table: the five triples of R172 with their command types. -/
def commandTable : List ((Byte × Byte × Byte) × CommandType) :=
  [((0xF1#8, 0x03#8, 0x02#8), .allRise),
   ((0xF1#8, 0x03#8, 0x01#8), .allDescend),
   ((0xF1#8, 0x03#8, 0x03#8), .allStop),
   ((0xD1#8, 0x03#8, 0x02#8), .shortFormationRise),
   ((0xE1#8, 0x03#8, 0x02#8), .reconnectedTrainRise)]

/-- The lookup in the command table, with the default Unknown (R170, R172). -/
def lookupTriple (triple : Byte × Byte × Byte) : CommandType :=
  match commandTable.find? (fun row => row.1 == triple) with
  | some row => row.2
  | none => .unknown

/-- `match(hdr, t6, t7, t8)` (R173). -/
def matchCommand (hdr : Bool) (t6 t7 t8 : Byte) : CommandType :=
  if hdr then lookupTriple (t6, t7, t8) else .unknown

/-- `result()` (R146): the first failing step of `classify` decides. -/
def frameResult (s : State) : Result :=
  let v := frameVerify s
  let hdr := frameHeader s
  if s.decErr ≠ .none then
    { outcome := .decodeError, chkValid := false, cmd := .unknown, verify := false, decDetail := s.decErr, hdrMatch := false }
  else if s.len.toNat < Config.minFrameLen then
    { outcome := .lengthError, chkValid := false, cmd := .unknown, verify := v, decDetail := .none, hdrMatch := hdr }
  else if v = false then
    { outcome := .checksumError, chkValid := false, cmd := .unknown, verify := false, decDetail := .none, hdrMatch := hdr }
  else
    let k := matchCommand hdr s.t6 s.t7 s.t8
    if k ≠ .unknown then
      { outcome := .recognized, chkValid := true, cmd := k, verify := true, decDetail := .none, hdrMatch := hdr }
    else
      { outcome := .unrecognized, chkValid := true, cmd := .unknown, verify := true, decDetail := .none, hdrMatch := hdr }

end Sys2Proof.Machine
end

