-- ==== Sys2Proof/Machine/Ops.lean ====
section
/-! DEFINITION. The shared operations on the state: giving a response (30_encoding.md R78), refusing a command (the block's
one exception mechanism, 60_exceptions.md R222) and re-arming the record (43_control.md R203), reset (70_reset_and_hazards.md
R250), opening a frame (41_frame.md R131), the byte push (R133), the hex front end (R137) and closing a frame (R145). -/

namespace Sys2Proof.Machine

/-- The same block with other events still to come. -/
def setPort (p : List PortEvent) (s : State) : State :=
  { s with port := p }

/-- `resp <- w`: the command's one response word goes to the host (R78). -/
def respond (w : Word) (s : State) : State :=
  { s with resps := s.resps ++ [w] }

/-- `raise OpError(cause)` (R222): the first cause since the record was clear is kept, the response is 0, and nothing else
changes. -/
def raiseOpError (cause : ErrCause) (s : State) : State :=
  respond 0 { s with opErr := true, errCause := if s.opErr then s.errCause else cause }

/-- `OP_ERR <- 0; ERR_CAUSE <- 0` (R203), the only way to re-arm the error record (R228). -/
def clearErrorRecord (s : State) : State :=
  { s with opErr := false, errCause := .none }

/-- Reset (R250): every state element takes its value of 10_state.md R37. What the host has still to deliver, and what it
has been given, lie outside the block and stay (log entry 4). -/
def applyReset (s : State) : State :=
  { State.reset with port := s.port, resps := s.resps }

/-- The writes of FRAME_START (R131): every frame register at its frame-initial value, RES cleared. -/
def openFrame (m : Mode) (s : State) : State :=
  { s with
    phase := .collect, mode := m, fcrc := Config.crcInit, h1 := 0, h0 := 0, len := 0, hdrOk := true,
    t6 := 0, t7 := 0, t8 := 0, nibPend := false, nib := 0, decErr := .none, res := Result.cleared }

/-- `sat15(LEN + 1)` (00_scope.md R8): the sum is a natural number before saturation. -/
def nextLen (len : Nibble) : Nibble :=
  BitVec.ofNat 4 (min (len.toNat + 1) Config.lenMax)

/-- `push(d)` (R133). Every check uses the old `LEN`. -/
def push (d : Byte) (s : State) : State :=
  let k := s.len.toNat
  { s with
    fcrc := if 2 ≤ k then crcStep s.fcrc s.h1 else s.fcrc
    h1 := s.h0
    h0 := d
    hdrOk := if k ≤ 5 then s.hdrOk && (d == Config.header.getD k 0) else s.hdrOk
    t6 := if k = 6 then d else s.t6
    t7 := if k = 7 then d else s.t7
    t8 := if k = 8 then d else s.t8
    len := nextLen s.len }

/-- A hex digit `v` of the text (R137): the first of two waits in `NIB`, the second completes a byte. -/
def takeDigit (v : Nibble) (s : State) : State :=
  if s.nibPend then { push (joinNibbles s.nib v) s with nib := 0, nibPend := false }
  else { s with nib := v, nibPend := true }

/-- A character of an open TEXT frame (R137): nothing once decoding has failed (R142), a space is dropped (R140), a digit is
taken, and any other code fails the decoding with NON_HEX. -/
def takeChar (c : Byte) (s : State) : State :=
  if s.decErr ≠ .none then s
  else if c = spaceCode then s
  else
    match hexval c with
    | some v => takeDigit v s
    | none => { s with decErr := .nonHex }

/-- The ODD_LENGTH check of FRAME_END (R145). -/
def finishText (s : State) : State :=
  if s.mode = .text ∧ s.decErr = .none ∧ s.nibPend = true then { s with decErr := .oddLength } else s

/-- The writes of FRAME_END (R145): the ODD_LENGTH check, then RES, then DONE. The frame registers stay. -/
def closeFrame (s : State) : State :=
  let s1 := finishText s
  { s1 with res := frameResult s1, phase := .done }

end Sys2Proof.Machine
end

