-- ==== Sys2Proof/Machine/Checksum.lean ====
section
/-! DEFINITION. The CRC unit's commands (40_checksum.md R110 to R112). Each is legal in every PHASE and leaves the frame unit
alone. -/

namespace Sys2Proof.Machine

/-- CRC_INIT (R110): `ACC <- 0xFFFF`. -/
def execCrcInit (s : State) : Host.Outcome State Fault Refusal :=
  .next (respond 0 { s with acc := Config.crcInit })

/-- CRC_BYTE (R111): `ACC <- crc_step(ACC, d)`. -/
def execCrcByte (d : Byte) (s : State) : Host.Outcome State Fault Refusal :=
  .next (respond 0 { s with acc := crcStep s.acc d })

/-- CRC_READ (R112): `resp <- ACC`. -/
def execCrcRead (s : State) : Host.Outcome State Fault Refusal :=
  .next (respond s.acc s)

end Sys2Proof.Machine
end

