-- ==== Sys2Proof/Machine/Control.lean ====
section
/-! DEFINITION. The control commands and the reserved words (43_control.md R200 to R204), legal (or refused) alike in every
PHASE and MODE. -/

namespace Sys2Proof.Machine

/-- NOP (R200): nothing but the response 0. -/
def execNop (s : State) : Host.Outcome State Fault Refusal :=
  .next (respond 0 s)

/-- STATUS_READ (R202): `resp <- STATUS`; the read does not clear `OP_ERR`. -/
def execStatusRead (s : State) : Host.Outcome State Fault Refusal :=
  .next (respond (statusWord s) s)

/-- CLEAR_ERR (R203). -/
def execClearErr (s : State) : Host.Outcome State Fault Refusal :=
  .next (respond 0 (clearErrorRecord s))

/-- A reserved word, `OP` 0xC to 0xF (R204): the op error ILLEGAL, whatever the other 14 bits. -/
def execReserved (_x : BitVec 14) (s : State) : Host.Outcome State Fault Refusal :=
  .next (raiseOpError .illegal s)

end Sys2Proof.Machine
end

