-- ==== Sys2Proof/Machine/Frame.lean ====
section
/-! DEFINITION. The frame unit's commands (41_frame.md R131, R135, R137, R145, R150). The order of the refusal checks is that
of 60_exceptions.md R225: SEQUENCE, then MODE. -/

namespace Sys2Proof.Machine

/-- FRAME_START (R131), legal in every PHASE. -/
def execFrameStart (m : Mode) (s : State) : Host.Outcome State Fault Refusal :=
  .next (respond 0 (openFrame m s))

/-- FRAME_BYTE (R135). -/
def execFrameByte (d : Byte) (s : State) : Host.Outcome State Fault Refusal :=
  if s.phase ≠ .collect then .next (raiseOpError .sequence s)
  else if s.mode ≠ .byte then .next (raiseOpError .mode s)
  else .next (respond 0 (push d s))

/-- FRAME_CHAR (R137). -/
def execFrameChar (c : Byte) (s : State) : Host.Outcome State Fault Refusal :=
  if s.phase ≠ .collect then .next (raiseOpError .sequence s)
  else if s.mode ≠ .text then .next (raiseOpError .mode s)
  else .next (respond 0 (takeChar c s))

/-- FRAME_END (R145). -/
def execFrameEnd (s : State) : Host.Outcome State Fault Refusal :=
  if s.phase ≠ .collect then .next (raiseOpError .sequence s)
  else .next (respond 0 (closeFrame s))

/-- RESULT_READ (R150): `resp <- RES`. -/
def execResultRead (s : State) : Host.Outcome State Fault Refusal :=
  .next (respond s.res.word s)

end Sys2Proof.Machine
end

