-- ==== Sys2Proof/Machine/VectorRom.lean ====
section
/-! DEFINITION. The vector ROM's command (42_matcher.md R182). -/

namespace Sys2Proof.Machine

/-- VEC_READ (R182): VEC_RANGE for `i` of 5 or more, else item `j` of vector `i`, zero-extended. -/
def execVecRead (i j : Nibble) (s : State) : Host.Outcome State Fault Refusal :=
  if Config.nVectors ≤ i.toNat then .next (raiseOpError .vecRange s)
  else .next (respond (zext16 (vecRom i j)) s)

end Sys2Proof.Machine
end

