-- ==== Sys2Proof/Machine/Dispatch.lean ====
section
/-! DEFINITION. One arm per command of the opcode map (30_encoding.md R72). -/

namespace Sys2Proof.Machine

def exec (i : Instr) (s : State) : Host.Outcome State Fault Refusal :=
  match i with
  | .nop => Sys2Proof.Machine.execNop s
  | .crcInit => Sys2Proof.Machine.execCrcInit s
  | .crcByte d => Sys2Proof.Machine.execCrcByte d s
  | .crcRead => Sys2Proof.Machine.execCrcRead s
  | .frameStart m => Sys2Proof.Machine.execFrameStart m s
  | .frameByte d => Sys2Proof.Machine.execFrameByte d s
  | .frameChar c => Sys2Proof.Machine.execFrameChar c s
  | .frameEnd => Sys2Proof.Machine.execFrameEnd s
  | .resultRead => Sys2Proof.Machine.execResultRead s
  | .vecRead a b => Sys2Proof.Machine.execVecRead a b s
  | .statusRead => Sys2Proof.Machine.execStatusRead s
  | .clearErr => Sys2Proof.Machine.execClearErr s
  | .reserved x => Sys2Proof.Machine.execReserved x s

end Sys2Proof.Machine
end

