-- ==== Sys2Proof/Machine/Perform.lean ====
section
/-! DEFINITION. Performing one command word (30_encoding.md R79) and taking the next event of the port (20_memory.md R58). -/

namespace Sys2Proof.Machine

/-- The block performs one command word: an illegal word raises ILLEGAL before any other check (R79, R225). -/
def performWord (w : Word) (s : State) : Host.Outcome State Fault Refusal :=
  match decode w with
  | .ok i => exec i s
  | .illegal _ => .next (raiseOpError .illegal s)

/-- The oldest event of the port leaves it and is performed (R56, R58). With nothing at the port the block waits
(70_reset_and_hazards.md R251, R262; log entry 2). -/
def takeEvent (s : State) : Host.Outcome State Fault Refusal :=
  match s.port with
  | [] => .next s
  | .reset :: rest => .next (applyReset (setPort rest s))
  | .command w :: rest => performWord w (setPort rest s)

/-- The host issues the word `w` before everything else it will deliver (log entry 1). -/
def issueNext (w : Word) (s : State) : State :=
  setPort (.command w :: s.port) s

end Sys2Proof.Machine
end

