-- ==== Sys2Proof/Machine/Step.lean ====
section
/-! DEFINITION. One step of the block, and the host's way of placing the next command. -/

namespace Sys2Proof.Machine

/-- One step: the block takes the next event of its port and performs it completely (20_memory.md R56, R58). -/
def step (s : State) : Host.Outcome State Fault Refusal := takeEvent s

/-- The host issues the command word next (log entry 1): the very next step takes exactly this word. -/
def State.withFetchWord (s : State) (nbits w : Nat) : State := issueNext (tableWord nbits w) s

end Sys2Proof.Machine
end

