-- ==== Sys2Proof/Machine/Source.lean ====
section
/-! DEFINITION. The source's functions that the hardware must reproduce (00_scope.md R3): `classify` by the six steps of
41_frame.md R130 and `testVectors` (42_matcher.md R180), with the host's mapping of the RES word to a ParseResult (R151,
R176). `classify` here reads whole texts and knows nothing of the machine's registers. -/

namespace Sys2Proof.Machine

/-- `ParseResult` (R151). A text is its sequence of 8-bit character codes (R152). -/
structure ParseResult where
  checksumValid : Bool
  commandType : CommandType
  commandName : String
  errorMessage : Option String
  originalHex : List Byte
  deriving DecidableEq, Repr

/-- The `errorMessage` of a checksum-valid frame that is not recognized (93_implementation_defined.md I1, I7): a parameter
of the host mapping. R151 uses the marker. -/
inductive UnrecognizedMessage where
  | null
  | marker
  deriving DecidableEq, Repr

/-- The text of the parameter `UNRECOGNIZED_MESSAGE`. -/
def UnrecognizedMessage.text : UnrecognizedMessage → Option String
  | .null => none
  | .marker => some "checksum valid but command unrecognized"

/-- `commandName` of a command code (R176); the names of codes 2 to 5 are host data. -/
def commandName (code : Nat) : String :=
  match code with
  | 0 => "unknown"
  | 1 => "全部上升"
  | k => Config.cmdName k

/-- "hex decode error: <detail>" with the host's text for the detail code (R151). -/
def decodeErrorMessage (detail : Nat) : String :=
  "hex decode error: " ++ Config.decodeDetail detail

/-- The CommandType of a code (R171); 6 and 7 are none. -/
def commandOfCode (code : Nat) : Option CommandType :=
  match code with
  | 0 => some .unknown
  | 1 => some .allRise
  | 2 => some .allDescend
  | 3 => some .allStop
  | 4 => some .shortFormationRise
  | 5 => some .reconnectedTrainRise
  | _ => none

/-- `errorMessage` by the OUTCOME code (R151); none where there is no result (NONE, 6 and 7). -/
def messageOfOutcome (u : UnrecognizedMessage) (outcome detail : Nat) : Option (Option String) :=
  match outcome with
  | 1 => some (some (decodeErrorMessage detail))
  | 2 => some (some "insufficient frame length")
  | 3 => some (some "checksum verification failed")
  | 4 => some none
  | 5 => some u.text
  | _ => none

/-- The host's mapping of the RES word it has read to a ParseResult (R151); none for a word that holds no result. -/
def parseResult (u : UnrecognizedMessage) (r : Word) (text : List Byte) : Option ParseResult :=
  let code := (r.extractLsb' 4 3).toNat
  match messageOfOutcome u (r.extractLsb' 0 3).toNat (r.extractLsb' 8 2).toNat, commandOfCode code with
  | some message, some command =>
    some { checksumValid := r.getLsbD 3, commandType := command, commandName := commandName code,
           errorMessage := message, originalHex := text }
  | _, _ => none

/-- Uppercasing of one character code (step 1 of R130): only `a` to `z` change. -/
def upperCase (c : Byte) : Byte :=
  if 0x61 ≤ c.toNat ∧ c.toNat ≤ 0x7A then c - 0x20#8 else c

/-- Step 1 of R130: remove all space characters (R140: the code 0x20), uppercase the rest. -/
def normalizeText (text : List Byte) : List Byte :=
  (text.filter (fun c => c ≠ spaceCode)).map upperCase

/-- The value of a digit of normalized text: `0` to `9` and `A` to `F` only. -/
def upperHexDigit (c : Byte) : Option Nibble :=
  if 0x30 ≤ c.toNat ∧ c.toNat ≤ 0x39 then some (BitVec.ofNat 4 (c.toNat - 0x30))
  else if 0x41 ≤ c.toNat ∧ c.toNat ≤ 0x46 then some (BitVec.ofNat 4 (c.toNat - 0x37))
  else none

/-- The digits of a normalized text; none if it holds a non-hex character. -/
def hexDigits : List Byte → Option (List Nibble)
  | [] => some []
  | c :: cs =>
    match upperHexDigit c, hexDigits cs with
    | some d, some ds => some (d :: ds)
    | _, _ => none

/-- Pairs of digits form bytes, the first the high nibble (R139, 20_memory.md R53). -/
def pairDigits : List Nibble → List Byte
  | hi :: lo :: rest => joinNibbles hi lo :: pairDigits rest
  | _ => []

/-- Step 2 of R130, with the decode detail of R139 and R143: the bytes, or why the text does not decode. -/
def hexDecode (normalized : List Byte) : DecErr × List Byte :=
  match hexDigits normalized with
  | none => (.nonHex, [])
  | some ds => if ds.length % 2 = 1 then (.oddLength, []) else (.none, pairDigits ds)

/-- The ParseResult of steps 2 to 4: no valid checksum, the command unknown, the message given. -/
def failedParse (message : String) (text : List Byte) : ParseResult :=
  { checksumValid := false, commandType := .unknown, commandName := commandName 0, errorMessage := some message,
    originalHex := text }

/-- Steps 3 to 6 of R130 on a decoded byte sequence. -/
def classifyDecoded (u : UnrecognizedMessage) (text fb : List Byte) : ParseResult :=
  if fb.length < Config.minFrameLen then failedParse "insufficient frame length" text
  else if verifyChecksum fb = false then failedParse "checksum verification failed" text
  else
    let k := if fb.take 6 = Config.header then lookupTriple (fb.getD 6 0, fb.getD 7 0, fb.getD 8 0) else .unknown
    { checksumValid := true, commandType := k, commandName := commandName k.code.toNat,
      errorMessage := if k = .unknown then u.text else none, originalHex := text }

/-- `classify(hexText)` (R130). -/
def classify (u : UnrecognizedMessage) (text : List Byte) : ParseResult :=
  match hexDecode (normalizeText text) with
  | (.none, fb) => classifyDecoded u text fb
  | (detail, _) => failedParse (decodeErrorMessage detail.code.toNat) text

/-- `testVectors()` (R180): the five frames, each with its command's name. -/
def testVectors : List (String × List Byte) :=
  [1, 2, 3, 4, 5].map commandName |>.zip vectors

end Sys2Proof.Machine
end

