-- ==== Sys2Proof/Machine/Assembler.lean ====
section
/-! DEFINITION. The assembler of the spec (30_encoding.md R81) and its pseudo-instructions (R82): their expansion to
commands, the words of a line, and the reading of a program's text. Lexical points R81 leaves open: log entry 12. -/

namespace Sys2Proof.Machine

/-- `crc.compute` (R82). -/
def crcComputeCmds (bs : List Byte) : List Instr := .crcInit :: (bs.map .crcByte ++ [.crcRead])

/-- `frame.bytes` (R82). -/
def frameBytesCmds (bs : List Byte) : List Instr := .frameStart .byte :: (bs.map .frameByte ++ [.frameEnd])

/-- `verify` and `classify.bytes` (R82). -/
def classifyBytesCmds (bs : List Byte) : List Instr := frameBytesCmds bs ++ [.resultRead]

/-- `classify` (R82): every character in order, spaces included. -/
def classifyTextCmds (text : List Byte) : List Instr :=
  .frameStart .text :: (text.map .frameChar ++ [.frameEnd, .resultRead])

/-- `vec.frame` (R82): items 0 to 13, then 14. -/
def vecFrameCmds (i : Nibble) : List Instr := (List.range 15).map (fun j => .vecRead i (BitVec.ofNat 4 j))

/-- A written operand as a byte. -/
def asByte (n : Nat) : Byte := BitVec.ofNat 8 n

/-- The commands of a line whose operands are in range (R81, R82). -/
def expandLine : AsmLine → List Instr
  | .nop => [.nop]
  | .crcInit => [.crcInit]
  | .crcByte d => [.crcByte (asByte d)]
  | .crcRead => [.crcRead]
  | .frameStart m => [.frameStart m]
  | .frameByte d => [.frameByte (asByte d)]
  | .frameChar c => [.frameChar (asByte c)]
  | .frameCharQuoted c => [.frameChar (asByte c)]
  | .frameEnd => [.frameEnd]
  | .resultRead => [.resultRead]
  | .vecRead i j => [.vecRead (BitVec.ofNat 4 i) (BitVec.ofNat 4 j)]
  | .statusRead => [.statusRead]
  | .errClear => [.clearErr]
  | .crcCompute bs => crcComputeCmds (bs.map asByte)
  | .frameBytes bs => frameBytesCmds (bs.map asByte)
  | .verify bs => classifyBytesCmds (bs.map asByte)
  | .classify text => classifyTextCmds (text.map asByte)
  | .classifyBytes bs => classifyBytesCmds (bs.map asByte)
  | .vecFrame i => vecFrameCmds (BitVec.ofNat 4 i)

/-- The words of a line; none is an assembly error, an operand out of range (R81). -/
def assembleLine (l : AsmLine) : Option (List Word) :=
  if l.wf then some ((expandLine l).map encode) else none

/-- The words of a program, one line after another; an error in any line is an error of the program. -/
def assembleLines : List AsmLine → Option (List Word)
  | [] => some []
  | l :: ls =>
    match assembleLine l, assembleLines ls with
    | some ws, some rest => some (ws ++ rest)
    | _, _ => none

/-- A token of a line. -/
inductive AsmToken where
  | name (cs : List Char)
  | number (n : Nat)
  | quoted (c : Nat)
  | str (cs : List Nat)
  | comma
  deriving DecidableEq, Repr

/-- Where the reading of a line stands: between tokens, in a name or number (its characters so far, last first), after an
opening quote, after a quoted character, or in a string (its codes so far, last first). -/
inductive LexState where
  | between
  | inWord (rev : List Char)
  | quote
  | quotedChar (c : Nat)
  | inString (rev : List Nat)
  deriving DecidableEq, Repr

/-- The value of a digit of a number in the given base. -/
def numberDigit (base : Nat) (c : Char) : Option Nat :=
  let n := c.toNat
  let v := if 0x30 ≤ n ∧ n ≤ 0x39 then some (n - 0x30)
    else if 0x41 ≤ n ∧ n ≤ 0x46 then some (n - 0x37)
    else if 0x61 ≤ n ∧ n ≤ 0x66 then some (n - 0x57)
    else none
  v.filter (fun d => d < base)

/-- Digits read from the left onto a value; none at a character that is no digit. -/
def readDigits (base : Nat) : Nat → List Char → Option Nat
  | acc, [] => some acc
  | acc, c :: cs =>
    match numberDigit base c with
    | some d => readDigits base (acc * base + d) cs
    | none => none

/-- A number (R81): `0x` and hex digits, or decimal digits. -/
def readNumber (cs : List Char) : Option Nat :=
  match cs with
  | '0' :: 'x' :: d :: ds => readDigits 16 0 (d :: ds)
  | d :: ds => readDigits 10 0 (d :: ds)
  | [] => none

/-- A name or a number: it is a number when it begins with a digit. -/
def wordToken (cs : List Char) : Option AsmToken :=
  match cs with
  | c :: _ => if (numberDigit 10 c).isSome then (readNumber cs).map .number else some (.name cs)
  | [] => none

/-- The token that ends here, if one was being read, in front of what follows. -/
def endToken (st : LexState) (rest : Option (List AsmToken)) : Option (List AsmToken) :=
  match st, rest with
  | .between, some ts => some ts
  | .inWord rev, some ts => (wordToken rev.reverse).map (fun t => t :: ts)
  | _, _ => none

/-- The tokens of a line. `;` outside quotes starts a comment (R81). DESIGN CHOICE (log entry 12): a blank, a comma or an opening
quote ends a word, so no blank is needed between a word and a quoted operand after it, nor between any other two tokens that
are not both words. -/
def lexLine : LexState → List Char → Option (List AsmToken)
  | st, [] => endToken st (some [])
  | .quote, c :: cs => lexLine (.quotedChar c.toNat) cs
  | .quotedChar n, c :: cs => if c = '\'' then (lexLine .between cs).map (fun ts => .quoted n :: ts) else none
  | .inString rev, c :: cs =>
    if c = '"' then (lexLine .between cs).map (fun ts => .str rev.reverse :: ts) else lexLine (.inString (c.toNat :: rev)) cs
  | .between, c :: cs =>
    if c = ';' then some []
    else if c = ' ' ∨ c = '\t' ∨ c = '\r' then lexLine .between cs
    else if c = ',' then (lexLine .between cs).map (fun ts => .comma :: ts)
    else if c = '\'' then lexLine .quote cs
    else if c = '"' then lexLine (.inString []) cs
    else lexLine (.inWord [c]) cs
  | .inWord rev, c :: cs =>
    if c = ';' then endToken (.inWord rev) (some [])
    else if c = ' ' ∨ c = '\t' ∨ c = '\r' then endToken (.inWord rev) (lexLine .between cs)
    else if c = ',' then endToken (.inWord rev) ((lexLine .between cs).map (fun ts => .comma :: ts))
    else if c = '\'' then endToken (.inWord rev) (lexLine .quote cs)
    else if c = '"' then endToken (.inWord rev) (lexLine (.inString []) cs)
    else lexLine (.inWord (c :: rev)) cs

/-- The operands `b0, ..., bn-1` (R82), n of 0 or more. -/
def numberList : List AsmToken → Option (List Nat)
  | [] => some []
  | [.number n] => some [n]
  | .number n :: .comma :: t :: ts => (numberList (t :: ts)).map (fun ns => n :: ns)
  | _ => none

/-- A line without operands. -/
def noOperands (l : AsmLine) (args : List AsmToken) : Option AsmLine :=
  if args = [] then some l else none

/-- A line with one number. -/
def oneNumber (f : Nat → AsmLine) (args : List AsmToken) : Option AsmLine :=
  match args with
  | [.number n] => some (f n)
  | _ => none

/-- `frame.start byte` or `frame.start text` (R81). -/
def startOperand (args : List AsmToken) : Option AsmLine :=
  match args with
  | [.name cs] =>
    if cs = "byte".toList then some (.frameStart .byte)
    else if cs = "text".toList then some (.frameStart .text)
    else none
  | _ => none

/-- `frame.char <c>` (R81): a number or a quoted character. -/
def charOperand (args : List AsmToken) : Option AsmLine :=
  match args with
  | [.number n] => some (.frameChar n)
  | [.quoted n] => some (.frameCharQuoted n)
  | _ => none

/-- `vec.read <i>, <j>` (R81). -/
def vecOperands (args : List AsmToken) : Option AsmLine :=
  match args with
  | [.number i, .comma, .number j] => some (.vecRead i j)
  | _ => none

/-- `classify "<text>"` (R82). -/
def textOperand (args : List AsmToken) : Option AsmLine :=
  match args with
  | [.str cs] => some (.classify cs)
  | _ => none

/-- A line from its mnemonic and operands (R81, R82). -/
def readMnemonic (m : String) (args : List AsmToken) : Option AsmLine :=
  match m with
  | "nop" => noOperands .nop args
  | "crc.init" => noOperands .crcInit args
  | "crc.byte" => oneNumber .crcByte args
  | "crc.read" => noOperands .crcRead args
  | "frame.start" => startOperand args
  | "frame.byte" => oneNumber .frameByte args
  | "frame.char" => charOperand args
  | "frame.end" => noOperands .frameEnd args
  | "result.read" => noOperands .resultRead args
  | "vec.read" => vecOperands args
  | "status.read" => noOperands .statusRead args
  | "err.clear" => noOperands .errClear args
  | "crc.compute" => (numberList args).map .crcCompute
  | "frame.bytes" => (numberList args).map .frameBytes
  | "verify" => (numberList args).map .verify
  | "classify" => textOperand args
  | "classify.bytes" => (numberList args).map .classifyBytes
  | "vec.frame" => oneNumber .vecFrame args
  | _ => none

/-- A line of text: nothing for a blank line, a line of the program, or none for an assembly error. -/
def readLine (cs : List Char) : Option (List AsmLine) :=
  match lexLine .between cs with
  | some [] => some []
  | some (.name m :: args) => (readMnemonic (String.ofList m) args).map (fun l => [l])
  | _ => none

/-- The lines of a program, one command a line (R81). -/
def readLines : List (List Char) → Option (List AsmLine)
  | [] => some []
  | cs :: rest =>
    match readLine cs, readLines rest with
    | some l, some ls => some (l ++ ls)
    | _, _ => none

/-- The words of a program's text (R81). -/
def assembleText (text : List Char) : Option (List Word) :=
  match readLines (text.splitOn '\n') with
  | some ls => assembleLines ls
  | none => none

end Sys2Proof.Machine
end

