-- ==== Sys2Proof/Safety.lean ====
section
/-! DEFINITION. The terms in which claims are stated: the invariant of the registers, what a frame's registers hold (41_frame.md
R134), the part of the state the frame unit owns, and sequences of command words at the port. -/

namespace Sys2Proof.Machine

/-- The invariant of the registers, clause by clause. -/
structure Inv (s : State) : Prop where
  /-- `ERR_CAUSE` is written with `OP_ERR` and cleared with it (R31, R222). -/
  errorRecord : s.opErr = false ↔ s.errCause = .none
  /-- No result before FRAME_END: RES reads 0x0000 (R29, R150). -/
  noResultYet : s.phase ≠ .done → s.res = Result.cleared
  /-- After FRAME_END, RES is the result of the frame registers, which stay as they were (R145, R146). -/
  resultOfFrame : s.phase = .done → s.res = frameResult s
  /-- A BYTE frame never writes the text registers (R136). -/
  byteFrame : s.mode = .byte → s.decErr = .none ∧ s.nibPend = false
  /-- `NIB` holds a digit only while one waits (R137). -/
  noNibble : s.nibPend = false → s.nib = 0
  /-- ODD_LENGTH is set only by FRAME_END, when a digit waits (R145). -/
  oddLength : s.decErr = .oddLength → s.phase = .done ∧ s.nibPend = true
  /-- A finished frame with a waiting digit has a decode error (R145). -/
  finished : s.phase = .done → s.nibPend = true → s.decErr ≠ .none
  /-- In IDLE the frame unit is as reset left it (R24, R37). -/
  idleFrame : s.phase = .idle → s.mode = .byte ∧ s.len = 0 ∧ s.decErr = .none ∧ s.nibPend = false
  /-- A byte enters `FCRC` only once two later bytes have arrived (R28, R134). -/
  delayLine : s.len.toNat < 3 → s.fcrc = Config.crcInit
  /-- `H1` is frame-initial below two bytes (R134). -/
  secondByte : s.len.toNat < 2 → s.h1 = 0
  /-- `H0` is frame-initial before the first byte (R134). -/
  firstByte : s.len.toNat < 1 → s.h0 = 0
  /-- `HDR_OK` is 1 before the first byte (R134). -/
  headerStart : s.len.toNat < 1 → s.hdrOk = true
  /-- `T6` is frame-initial below 7 bytes (R134). -/
  groupByte : s.len.toNat < 7 → s.t6 = 0
  /-- `T7` is frame-initial below 8 bytes (R134). -/
  markerByte : s.len.toNat < 8 → s.t7 = 0
  /-- `T8` is frame-initial below 9 bytes (R134). -/
  actionByte : s.len.toNat < 9 → s.t8 = 0

/-- The frame registers hold the bytes `bs` pushed since FRAME_START: the bullets of R134. -/
structure FrameHolds (bs : List Byte) (s : State) : Prop where
  len : s.len.toNat = min bs.length 15
  fcrc : s.fcrc = if 3 ≤ bs.length then crc (bs.take (bs.length - 2)) else 0xFFFF#16
  h0 : s.h0 = if 1 ≤ bs.length then bs.getD (bs.length - 1) 0 else 0
  h1 : s.h1 = if 2 ≤ bs.length then bs.getD (bs.length - 2) 0 else 0
  hdrOk : s.hdrOk = true ↔ ∀ i, i < min bs.length 6 → bs.getD i 0 = Config.header.getD i 0
  t6 : s.t6 = if 7 ≤ bs.length then bs.getD 6 0 else 0
  t7 : s.t7 = if 8 ≤ bs.length then bs.getD 7 0 else 0
  t8 : s.t8 = if 9 ≤ bs.length then bs.getD 8 0 else 0

/-- Everything the frame unit owns: MODE, PHASE, the frame registers and RES (10_state.md section 3). -/
structure FrameUnit where
  mode : Mode
  phase : Phase
  fcrc : Word
  h1 : Byte
  h0 : Byte
  len : Nibble
  hdrOk : Bool
  t6 : Byte
  t7 : Byte
  t8 : Byte
  nibPend : Bool
  nib : Nibble
  decErr : DecErr
  res : Result
  deriving DecidableEq, Repr

/-- The frame unit's part of the state. -/
def frameUnit (s : State) : FrameUnit :=
  { mode := s.mode, phase := s.phase, fcrc := s.fcrc, h1 := s.h1, h0 := s.h0, len := s.len, hdrOk := s.hdrOk, t6 := s.t6,
    t7 := s.t7, t8 := s.t8, nibPend := s.nibPend, nib := s.nib, decErr := s.decErr, res := s.res }

/-- Command words as events of the port. -/
def commands (ws : List Word) : List PortEvent := ws.map .command

/-- The words of commands, as events of the port. -/
def issued (is : List Instr) : List PortEvent := commands (is.map encode)

/-- `n` steps of the block. -/
def run (n : Nat) (s : State) : Host.Outcome State Fault Refusal := Host.Core.run Sys2Proof.core n s

/-- The operands of the CRC_BYTE commands among the words, in order (R113). -/
def crcOperands (ws : List Word) : List Byte :=
  ws.filterMap (fun w => match decode w with | .ok (.crcByte d) => some d | _ => none)

/-- The operands of the FRAME_CHAR commands among the words, in order (41_frame.md R139). -/
def charOperands (ws : List Word) : List Byte :=
  ws.filterMap (fun w => match decode w with | .ok (.frameChar c) => some c | _ => none)

/-- The registers, the port and the responses after a refusal with the cause given (60_exceptions.md R222). -/
def refusedWith (c : ErrCause) (s : State) : State :=
  { s with opErr := true, errCause := if s.opErr then s.errCause else c, resps := s.resps ++ [0] }

/-- A word of a command without operand is illegal when `SUB` or `DATA` is not 0 (30_encoding.md R76). -/
def plainBad (w : Word) : Prop := subField w ≠ 0 ∨ dataField w ≠ 0

/-- A word of a command with a `DATA` operand is illegal when `SUB` is not 0 (R76). -/
def dataBad (w : Word) : Prop := subField w ≠ 0

/-- A word of FRAME_START is illegal when `w[11:9]` or `DATA` is not 0 (R76). -/
def startBad (w : Word) : Prop := startReserved w ≠ 0 ∨ dataField w ≠ 0

/-- The words of the operation code `op` are illegal exactly when `bad`: a bad one is refused with ILLEGAL when it is
issued, whatever the state, and any other decodes to a command. -/
def IllegalExactlyWhen (op : Nibble) (bad : Word → Prop) : Prop :=
  ∀ w, opField w = op →
    (bad w → ∀ s rest, s.port = .command w :: rest →
      step s = .next (refusedWith .illegal { s with port := rest })) ∧
    (¬ bad w → ∃ i, i.legal = true ∧ decode w = .ok i)

/-- Exactly `n` command words have the property `p`: a list without repeats holds them all and no other (R80). -/
def NumberOfWords (p : Word → Prop) (n : Nat) : Prop :=
  ∃ ws : List Word, ws.Nodup ∧ ws.length = n ∧ ∀ w, w ∈ ws ↔ p w

/-- The refusal, if any, of a command in a state, in the order of R225 (R221). -/
def refusalCause (i : Instr) (s : State) : Option ErrCause :=
  match i with
  | .nop => none
  | .crcInit => none
  | .crcByte _ => none
  | .crcRead => none
  | .frameStart _ => none
  | .frameByte _ => if s.phase ≠ .collect then some .sequence else if s.mode = .text then some .mode else none
  | .frameChar _ => if s.phase ≠ .collect then some .sequence else if s.mode = .byte then some .mode else none
  | .frameEnd => if s.phase ≠ .collect then some .sequence else none
  | .resultRead => none
  | .vecRead i _ => if 5 ≤ i.toNat then some .vecRange else none
  | .statusRead => none
  | .clearErr => none
  | .reserved _ => some .illegal

/-- The response word of a command that is performed (R78). -/
def responseWord (i : Instr) (s : State) : Word :=
  match i with
  | .nop => 0
  | .crcInit => 0
  | .crcByte _ => 0
  | .crcRead => s.acc
  | .frameStart _ => 0
  | .frameByte _ => 0
  | .frameChar _ => 0
  | .frameEnd => 0
  | .resultRead => s.res.word
  | .vecRead i j => zext16 (vecRom i j)
  | .statusRead => statusWord s
  | .clearErr => 0
  | .reserved _ => 0

/-- The registers after a command that is performed, before its response is given: the pseudocode of its rule. -/
def performed (i : Instr) (s : State) : State :=
  match i with
  | .nop => s
  | .crcInit => { s with acc := 0xFFFF#16 }
  | .crcByte d => { s with acc := crcStep s.acc d }
  | .crcRead => s
  | .frameStart m => openFrame m s
  | .frameByte d => push d s
  | .frameChar c => takeChar c s
  | .frameEnd => closeFrame s
  | .resultRead => s
  | .vecRead _ _ => s
  | .statusRead => s
  | .clearErr => clearErrorRecord s
  | .reserved _ => s

/-- The commands of the frame unit that write its registers (10_state.md R25, R29). -/
def writesFrame : Instr → Bool
  | .nop => false
  | .crcInit => false
  | .crcByte _ => false
  | .crcRead => false
  | .frameStart _ => true
  | .frameByte _ => true
  | .frameChar _ => true
  | .frameEnd => true
  | .resultRead => false
  | .vecRead _ _ => false
  | .statusRead => false
  | .clearErr => false
  | .reserved _ => false

/-- The commands that write `FCRC`, `H1`, `H0`, `LEN`, `HDR_OK` or `T6` to `T8` (R25): FRAME_START, and the two that push. -/
def writesBytes : Instr → Bool
  | .nop => false
  | .crcInit => false
  | .crcByte _ => false
  | .crcRead => false
  | .frameStart _ => true
  | .frameByte _ => true
  | .frameChar _ => true
  | .frameEnd => false
  | .resultRead => false
  | .vecRead _ _ => false
  | .statusRead => false
  | .clearErr => false
  | .reserved _ => false

/-- The commands that write `NIB_PEND` or `NIB` (R25); FRAME_END beside them may write `DEC_ERR`. -/
def writesNibble : Instr → Bool
  | .nop => false
  | .crcInit => false
  | .crcByte _ => false
  | .crcRead => false
  | .frameStart _ => true
  | .frameByte _ => false
  | .frameChar _ => true
  | .frameEnd => false
  | .resultRead => false
  | .vecRead _ _ => false
  | .statusRead => false
  | .clearErr => false
  | .reserved _ => false

/-- The commands that write `ACC` (R22). -/
def writesAcc : Instr → Bool
  | .nop => false
  | .crcInit => true
  | .crcByte _ => true
  | .crcRead => false
  | .frameStart _ => false
  | .frameByte _ => false
  | .frameChar _ => false
  | .frameEnd => false
  | .resultRead => false
  | .vecRead _ _ => false
  | .statusRead => false
  | .clearErr => false
  | .reserved _ => false

/-- The read commands of R57: they change no state. -/
def isRead : Instr → Bool
  | .nop => false
  | .crcInit => false
  | .crcByte _ => false
  | .crcRead => true
  | .frameStart _ => false
  | .frameByte _ => false
  | .frameChar _ => false
  | .frameEnd => false
  | .resultRead => true
  | .vecRead i _ => decide (i.toNat ≤ 4)
  | .statusRead => true
  | .clearErr => false
  | .reserved _ => false

end Sys2Proof.Machine
end

