-- ==== Sys2Proof/Certificates/Slice0/Obligations.lean ====
section
/-! DEFINITION. The statements for the provers. Each docstring names the rule of spec/ it formalises. A statement that speaks
of `port` or `resps` uses the model's own fields (log entries 1 to 4); the terms used are those of Sys2Proof/Safety.lean. -/

open Sys2Proof Sys2Proof.Machine

/-! ### Encoding (30_encoding.md) -/

/-- R72 to R75: every command, with every operand, decodes from its own word. -/
def Obligations.DecodeOfEncodeIsTheInstruction : Prop :=
  ∀ i : Instr, decode (encode i) = .ok i

/-- R72: a word has one meaning, so a decoded command's word is the word decoded. -/
def Obligations.DecodedWordIsTheEncoding : Prop :=
  ∀ (w : Word) (i : Instr), decode w = .ok i → encode i = w

/-- R72: for every word at most one row of the opcode map matches. -/
def Obligations.OpcodeRowsNeverOverlap : Prop :=
  ∀ w : Word, (opcodeRows.filter (fun r => rowMatches r w)).length ≤ 1

/-- R76: legal words are those a row other than the reserved one matches, the illegal ones are listed, and an illegal word
is refused with ILLEGAL and has no other effect. -/
def Obligations.LegalWordsAreTheRowsOfTheMap : Prop :=
  ∀ w : Word,
    (legalWord w = true ↔ ∃ r ∈ opcodeRows, r.2.2 = true ∧ rowMatches r w = true) ∧
    (legalWord w = false ↔
      0xC ≤ (opField w).toNat ∨
      (opField w ≠ 4 ∧ subField w ≠ 0) ∨
      (opField w = 4 ∧ startReserved w ≠ 0) ∨
      (opField w ∈ [0x0, 0x1, 0x3, 0x4, 0x7, 0x8, 0xA, 0xB] ∧ dataField w ≠ 0)) ∧
    (legalWord w = false → ∀ s rest, s.port = .command w :: rest →
      step s = .next (refusedWith .illegal { s with port := rest }))

/-- R80: the number of legal words, command by command and in all, and the number of illegal ones. -/
def Obligations.ThereAre1033LegalWords : Prop :=
  (∀ i ∈ [Instr.nop, .crcInit, .crcRead, .frameEnd, .resultRead, .statusRead, .clearErr],
    NumberOfWords (fun w => decode w = .ok i) 1) ∧
  NumberOfWords (fun w => ∃ m, decode w = .ok (.frameStart m)) 2 ∧
  NumberOfWords (fun w => ∃ d, decode w = .ok (.crcByte d)) 256 ∧
  NumberOfWords (fun w => ∃ d, decode w = .ok (.frameByte d)) 256 ∧
  NumberOfWords (fun w => ∃ c, decode w = .ok (.frameChar c)) 256 ∧
  NumberOfWords (fun w => ∃ i j, decode w = .ok (.vecRead i j)) 256 ∧
  NumberOfWords (fun w => legalWord w = true) 1033 ∧
  NumberOfWords (fun w => legalWord w = false) 64503

/-- R72, R76, R79: words written out bit by bit decode to the instructions of their rows, or to none. The model's choice (log
entry 6): that a reserved word decodes to the instruction `reserved`, and the names of the reasons of an illegal word. -/
def Obligations.WrittenOutWordsDecode : Prop :=
  decode 0b0000000000000000#16 = .ok .nop ∧
  decode 0b0010000001011010#16 = .ok (.crcByte 0x5A) ∧
  decode 0b0100000100000000#16 = .ok (.frameStart .text) ∧
  decode 0b0110000001000001#16 = .ok (.frameChar 0x41) ∧
  decode 0b1001000000110110#16 = .ok (.vecRead 3 6) ∧
  decode 0b1100000000000001#16 = .ok (.reserved 1) ∧
  decode 0b0000000000000001#16 = .illegal .nonzeroData ∧
  decode 0b0100001000000000#16 = .illegal .nonzeroSub

/-! ### The step, reset and refusals -/

/-- R58, R79: with a command word at the port that decodes to `i`, a step is the meaning of `i` on the state from whose port
the word has been taken. -/
def Obligations.StepPerformsTheDecodedCommand : Prop :=
  ∀ (s : State) (w : Word) (rest : List PortEvent) (i : Instr),
    s.port = .command w :: rest → decode w = .ok i → step s = exec i { s with port := rest }

/-- R153: every command word in any state has a next state and one response word, and no sequence makes the block hang. -/
def Obligations.EveryWordIsPerformedInEveryState : Prop :=
  (∀ (s : State) (w : Word) (rest : List PortEvent), s.port = .command w :: rest →
    ∃ t r, step s = .next t ∧ t.port = rest ∧ t.resps = s.resps ++ [r]) ∧
  (∀ (s : State) (ws : List Word), ∃ t, run ws.length { s with port := commands ws } = .next t ∧ t.port = [])

/-- R78: the one response word of every command, legal or illegal, performed or refused; a refusal shows in `OP_ERR` only. -/
def Obligations.EveryCommandReturnsItsResponseWord : Prop :=
  ∀ (s : State) (w : Word) (rest : List PortEvent), s.port = .command w :: rest →
    ∃ t r, step s = .next t ∧ t.resps = s.resps ++ [r] ∧
      (∀ i, decode w = .ok i → refusalCause i s = none →
        r = match i with
          | .crcRead => s.acc
          | .resultRead => s.res.word
          | .vecRead a b => zext16 (vecRom a b)
          | .statusRead => statusWord s
          | _ => 0) ∧
      (∀ i c, decode w = .ok i → refusalCause i s = some c → r = 0 ∧ t.opErr = true) ∧
      (∀ why, decode w = .illegal why → r = 0 ∧ t.opErr = true)

/-- R222: a refusal records the first cause, answers 0 and changes nothing else; a command that is not refused leaves the
record alone, but for CLEAR_ERR. -/
def Obligations.RefusalChangesOnlyTheErrorRecord : Prop :=
  ∀ (i : Instr) (s : State),
    (∀ c, refusalCause i s = some c →
      exec i s = .next { s with
        opErr := true, errCause := if s.opErr then s.errCause else c, resps := s.resps ++ [0#16] }) ∧
    (refusalCause i s = none → i ≠ .clearErr →
      ∃ t, exec i s = .next t ∧ t.opErr = s.opErr ∧ t.errCause = s.errCause)

/-- R30, R31, R228: once a refusal is recorded, only CLEAR_ERR or reset changes the record. -/
def Obligations.FirstCauseIsKept : Prop :=
  ∀ s t : State, step s = .next t → s.opErr = true →
    (∀ w, s.port.head? = some (.command w) → decode w ≠ .ok .clearErr) → s.port.head? ≠ some .reset →
    t.opErr = true ∧ t.errCause = s.errCause

/-- R204: a reserved word, and every other illegal word, raises ILLEGAL and changes nothing else; the example of 0xC000. That a
word of the reserved row decodes to the instruction `reserved`, where R79 says ILLEGAL at decode, is the model's choice (log
entry 6). -/
def Obligations.ReservedWordsAreRefused : Prop :=
  (∀ (x : BitVec 14) (s : State), exec (.reserved x) s = .next (refusedWith .illegal s)) ∧
  (∀ w : Word, 0xC ≤ (opField w).toNat → ∃ x, decode w = .ok (.reserved x)) ∧
  (∀ (w : Word) (s : State) (rest : List PortEvent), legalWord w = false → s.port = .command w :: rest →
    step s = .next (refusedWith .illegal { s with port := rest })) ∧
  (∃ t, step { State.reset with port := [.command 0xC000#16] } = .next t ∧ statusWord t = 0x4018#16)

/-- R37: every register after reset, the STATUS word and what RESULT_READ returns. -/
def Obligations.ResetStateHoldsTheResetValues : Prop :=
  State.reset.acc = 0xFFFF#16 ∧ State.reset.phase = .idle ∧ State.reset.mode = .byte ∧
  State.reset.fcrc = 0xFFFF#16 ∧ State.reset.h1 = 0x00#8 ∧ State.reset.h0 = 0x00#8 ∧ State.reset.len = 0 ∧
  State.reset.hdrOk = true ∧ State.reset.t6 = 0x00#8 ∧ State.reset.t7 = 0x00#8 ∧ State.reset.t8 = 0x00#8 ∧
  State.reset.nibPend = false ∧ State.reset.nib = 0 ∧ State.reset.decErr = .none ∧
  State.reset.res.word = 0x0000#16 ∧ State.reset.opErr = false ∧ State.reset.errCause = .none ∧
  statusWord State.reset = 0x4000#16 ∧
  exec .resultRead State.reset = .next { State.reset with resps := [0x0000#16] }

/-- R250, with reset as an event of the port (the model's choice, log entry 4): every register takes its reset value, and
what lies outside the block stays. -/
def Obligations.ResetEventRestoresEveryRegister : Prop :=
  ∀ (s : State) (rest : List PortEvent), s.port = .reset :: rest →
    step s = .next { State.reset with port := rest, resps := s.resps }

/-- R251, R262, in the model's form (log entry 2): with nothing at the port the block waits. -/
def Obligations.NothingHappensWithoutAnEvent : Prop :=
  ∀ s : State, s.port = [] → step s = .next s

/-! ### CRC unit (40_checksum.md) -/

/-- R110: CRC_INIT. -/
def Obligations.CrcInitSetsTheAccumulator : Prop :=
  encode .crcInit = 0x1000#16 ∧ IllegalExactlyWhen 0x1 plainBad ∧
  (∀ s : State, exec .crcInit s = .next { s with acc := 0xFFFF#16, resps := s.resps ++ [0#16] }) ∧
  exec .crcInit State.reset = .next { State.reset with resps := [0#16] }

/-- R111: CRC_BYTE, with its corner case and its example. -/
def Obligations.CrcByteAccumulatesOneByte : Prop :=
  (∀ d : Byte, encode (.crcByte d) = 0x2000#16 ||| d.setWidth 16) ∧ IllegalExactlyWhen 0x2 dataBad ∧
  (∀ (d : Byte) (s : State),
    exec (.crcByte d) s = .next { s with acc := crcStep s.acc d, resps := s.resps ++ [0#16] }) ∧
  crcStep 0xFFFF#16 0x00#8 = 0x40BF#16 ∧ crcStep 0xFFFF#16 0x01#8 = 0x807E#16 ∧
  (List.range 8).map (fun k => crcShifts (k + 1) 0xFFFE#16) =
    [0x7FFF, 0x9FFE, 0x4FFF, 0x87FE, 0x43FF, 0x81FE, 0x40FF, 0x807E]

/-- R112: CRC_READ, and that reading does not end the computation. -/
def Obligations.CrcReadReturnsTheAccumulator : Prop :=
  encode .crcRead = 0x3000#16 ∧ IllegalExactlyWhen 0x3 plainBad ∧
  (∀ s : State, exec .crcRead s = .next { s with resps := s.resps ++ [s.acc] }) ∧
  (∀ s : State, joinBytes (hiByte s.acc) (loByte s.acc) = s.acc) ∧
  (∀ s : State, ∃ t, run 2 { s with port := issued [.crcInit, .crcRead] } = .next t ∧
    t.resps = s.resps ++ [0#16, 0xFFFF#16]) ∧
  (∃ t, run 14 { State.reset with port := issued (crcComputeCmds
      [0x5A, 0x02, 0x7E, 0x00, 0x04, 0x08, 0xF1, 0x03, 0x02, 0x01, 0x80, 0xA5]) } = .next t ∧
    t.resps.getLast? = some 0x6DFC#16)

/-- R101: one byte step is eight shifts of the register with the byte in its low half, each with the exclusive-or of 0xA001
exactly when bit 0 was 1. -/
def Obligations.CrcStepIsEightConditionalShifts : Prop :=
  ∀ (r : Word) (d : Byte),
    crcStep r d = (List.range 8).foldl
      (fun (x : Word) (_ : Nat) => if x.getLsbD 0 = true then (x >>> 1) ^^^ 0xA001#16 else x >>> 1) (r ^^^ d.setWidth 16)

/-- R105: the round trip of the checksum holds for every sequence of at least one byte, and below three bytes
`verifyChecksum` is false. -/
def Obligations.ChecksumRoundTrip : Prop :=
  (∀ b : List Byte, 1 ≤ b.length → verifyChecksum (b ++ [(computeChecksum b).1, (computeChecksum b).2]) = true) ∧
  (∀ b : List Byte, b.length < 3 → verifyChecksum b = false) ∧
  verifyChecksum [0xFF, 0xFF] = false ∧ computeChecksum [] = (0xFF, 0xFF)

/-- R113: after CRC_INIT, CRC_READ returns the checksum of the bytes of the CRC_BYTE commands, whatever other words (but
CRC_INIT) are interleaved. -/
def Obligations.CrcCommandsComputeTheChecksum : Prop :=
  ∀ (s : State) (ws : List Word) (rest : List PortEvent),
    (∀ w ∈ ws, decode w ≠ .ok .crcInit) →
    s.port = commands (encode .crcInit :: (ws ++ [encode .crcRead])) ++ rest →
    ∃ t, run (ws.length + 2) s = .next t ∧ t.port = rest ∧
      t.resps.getLast? = some (joinBytes (computeChecksum (crcOperands ws)).1 (computeChecksum (crcOperands ws)).2)

/-! ### Frame unit (41_frame.md) -/

/-- R131: FRAME_START, in every state. -/
def Obligations.FrameStartOpensAFrame : Prop :=
  encode (.frameStart .byte) = 0x4000#16 ∧ encode (.frameStart .text) = 0x4100#16 ∧ IllegalExactlyWhen 0x4 startBad ∧
  (∀ (m : Mode) (s : State), exec (.frameStart m) s = .next { s with
    phase := .collect, mode := m, fcrc := 0xFFFF#16, h1 := 0x00#8, h0 := 0x00#8, len := 0, hdrOk := true,
    t6 := 0x00#8, t7 := 0x00#8, t8 := 0x00#8, nibPend := false, nib := 0, decErr := .none, res := Result.cleared,
    resps := s.resps ++ [0#16] }) ∧
  Result.cleared.word = 0x0000#16 ∧
  (∃ t, exec (.frameStart .text) State.reset = .next t ∧ statusWord t = 0x4005#16)

/-- R133: the byte push, register by register; every check uses the old `LEN`. -/
def Obligations.BytePushMovesTheDelayLine : Prop :=
  ∀ (d : Byte) (s : State), ∃ t, push d s = t ∧
    t = { s with
      fcrc := t.fcrc, h1 := s.h0, h0 := d, len := t.len, hdrOk := t.hdrOk, t6 := t.t6, t7 := t.t7, t8 := t.t8 } ∧
    (2 ≤ s.len.toNat → t.fcrc = crcStep s.fcrc s.h1) ∧ (s.len.toNat < 2 → t.fcrc = s.fcrc) ∧
    (∀ h : s.len.toNat ≤ 5,
      (t.hdrOk = true ↔ s.hdrOk = true ∧
        d = [0x5A#8, 0x02#8, 0x7E#8, 0x00#8, 0x04#8, 0x08#8][s.len.toNat]'(Nat.lt_succ_of_le h))) ∧
    (5 < s.len.toNat → t.hdrOk = s.hdrOk) ∧
    (s.len.toNat = 6 → t.t6 = d) ∧ (s.len.toNat ≠ 6 → t.t6 = s.t6) ∧
    (s.len.toNat = 7 → t.t7 = d) ∧ (s.len.toNat ≠ 7 → t.t7 = s.t7) ∧
    (s.len.toNat = 8 → t.t8 = d) ∧ (s.len.toNat ≠ 8 → t.t8 = s.t8) ∧
    t.len.toNat = min (s.len.toNat + 1) 15

/-- R134: the registers after the bytes pushed since FRAME_START, and that the comparison of R146 is `verifyChecksum`. -/
def Obligations.DelayLineHoldsTheFrame : Prop :=
  ∀ (m : Mode) (s : State) (bs : List Byte),
    FrameHolds bs (bs.foldl (fun u d => push d u) (openFrame m s)) ∧
    frameVerify (bs.foldl (fun u d => push d u) (openFrame m s)) = verifyChecksum bs

/-- R135: FRAME_BYTE, its two refusals and its effect. -/
def Obligations.FrameByteDeliversOneByte : Prop :=
  (∀ d : Byte, encode (.frameByte d) = 0x5000#16 ||| d.setWidth 16) ∧ IllegalExactlyWhen 0x5 dataBad ∧
  (∀ (d : Byte) (s : State), s.phase ≠ .collect → exec (.frameByte d) s = .next (refusedWith .sequence s)) ∧
  (∀ (d : Byte) (s : State), s.phase = .collect → s.mode = .text →
    exec (.frameByte d) s = .next (refusedWith .mode s)) ∧
  (∀ (d : Byte) (s : State), s.phase = .collect → s.mode = .byte →
    exec (.frameByte d) s = .next { push d s with resps := s.resps ++ [0#16] }) ∧
  (∀ (d : Byte) (s : State), s.len = 15 → (push d s).len = 15 ∧ (push d s).h1 = s.h0 ∧ (push d s).h0 = d ∧
    (push d s).fcrc = crcStep s.fcrc s.h1) ∧
  (∃ t, run 2 { State.reset with port := issued [.frameStart .byte, .frameByte 0x5A] } = .next t ∧
    t.len = 1 ∧ t.h0 = 0x5A#8 ∧ t.hdrOk = true ∧ t.fcrc = 0xFFFF#16)

/-- R138: the class and the value of every character code, and that accepting both cases is uppercasing first. -/
def Obligations.CharacterClasses : Prop :=
  spaceCode = 0x20#8 ∧
  ∀ c : Byte,
    (0x30 ≤ c.toNat → c.toNat ≤ 0x39 → hexval c = some (BitVec.ofNat 4 (c.toNat - 0x30))) ∧
    (0x41 ≤ c.toNat → c.toNat ≤ 0x46 → hexval c = some (BitVec.ofNat 4 (c.toNat - 0x37))) ∧
    (0x61 ≤ c.toNat → c.toNat ≤ 0x66 → hexval c = some (BitVec.ofNat 4 (c.toNat - 0x57))) ∧
    (c.toNat < 0x30 ∨ (0x39 < c.toNat ∧ c.toNat < 0x41) ∨ (0x46 < c.toNat ∧ c.toNat < 0x61) ∨ 0x66 < c.toNat →
      hexval c = none) ∧
    hexval c = upperHexDigit (upperCase c)

/-- R137: FRAME_CHAR, its two refusals and its effect for every class of character. -/
def Obligations.FrameCharDecodesOneCharacter : Prop :=
  (∀ c : Byte, encode (.frameChar c) = 0x6000#16 ||| c.setWidth 16) ∧ IllegalExactlyWhen 0x6 dataBad ∧
  (∀ (c : Byte) (s : State), s.phase ≠ .collect → exec (.frameChar c) s = .next (refusedWith .sequence s)) ∧
  (∀ (c : Byte) (s : State), s.phase = .collect → s.mode = .byte →
    exec (.frameChar c) s = .next (refusedWith .mode s)) ∧
  (∀ (c : Byte) (s : State), s.phase = .collect → s.mode = .text →
    (s.decErr ≠ .none → exec (.frameChar c) s = .next { s with resps := s.resps ++ [0#16] }) ∧
    (c = 0x20#8 → exec (.frameChar c) s = .next { s with resps := s.resps ++ [0#16] }) ∧
    (∀ v, s.decErr = .none → hexval c = some v → s.nibPend = false →
      exec (.frameChar c) s = .next { s with nib := v, nibPend := true, resps := s.resps ++ [0#16] }) ∧
    (∀ v, s.decErr = .none → hexval c = some v → s.nibPend = true →
      exec (.frameChar c) s = .next { push (joinNibbles s.nib v) s with
        nib := 0, nibPend := false, resps := s.resps ++ [0#16] }) ∧
    (s.decErr = .none → c ≠ 0x20#8 → hexval c = none →
      exec (.frameChar c) s = .next { s with decErr := .nonHex, resps := s.resps ++ [0#16] })) ∧
  (∃ t, run 3 { State.reset with port := issued [.frameStart .text, .frameChar 0x35, .frameChar 0x61] } = .next t ∧
    t.len = 1 ∧ t.h0 = 0x5A#8 ∧ t.nibPend = false) ∧
  (∃ t, run 4 { State.reset with
      port := issued [.frameStart .text, .frameChar 0x35, .frameChar 0x20, .frameChar 0x41] } = .next t ∧
    t.len = 1 ∧ t.h0 = 0x5A#8 ∧ t.nibPend = false)

/-- R139: what the characters of a TEXT frame leave after FRAME_END, whatever other words (but FRAME_START and FRAME_END) are
interleaved: NON_HEX, ODD_LENGTH, or the decoded bytes. -/
def Obligations.TextDecodesAsAWhole : Prop :=
  ∀ (s : State) (ws : List Word) (rest : List PortEvent),
    (∀ w ∈ ws, decode w ≠ .ok .frameEnd ∧ ∀ m, decode w ≠ .ok (.frameStart m)) →
    s.port = commands (encode (.frameStart .text) :: (ws ++ [encode .frameEnd])) ++ rest →
    ∃ t, run (ws.length + 2) s = .next t ∧ t.port = rest ∧
      (let t' := (charOperands ws).filter (fun c => c ≠ 0x20#8)
       ((∃ c ∈ t', hexval c = none) → t.decErr = .nonHex) ∧
       ((∀ c ∈ t', hexval c ≠ none) → t'.length % 2 = 1 → t.decErr = .oddLength) ∧
       ((∀ c ∈ t', hexval c ≠ none) → t'.length % 2 = 0 →
         t.decErr = .none ∧ FrameHolds (pairDigits (t'.filterMap hexval)) t))

/-- R145: FRAME_END, its refusal, the ODD_LENGTH check and the result; the example of the AllRise frame. -/
def Obligations.FrameEndClosesTheFrame : Prop :=
  encode .frameEnd = 0x7000#16 ∧ IllegalExactlyWhen 0x7 plainBad ∧
  (∀ s : State, s.phase ≠ .collect → exec .frameEnd s = .next (refusedWith .sequence s)) ∧
  (∀ s : State, s.phase = .collect → s.mode = .text → s.decErr = .none → s.nibPend = true →
    exec .frameEnd s = .next { s with
      decErr := .oddLength, res := frameResult { s with decErr := .oddLength }, phase := .done,
      resps := s.resps ++ [0#16] }) ∧
  (∀ s : State, s.phase = .collect → (s.mode = .byte ∨ s.decErr ≠ .none ∨ s.nibPend = false) →
    exec .frameEnd s = .next { s with res := frameResult s, phase := .done, resps := s.resps ++ [0#16] }) ∧
  (∃ t, run 16 { State.reset with port := issued (frameBytesCmds
      [0x5A, 0x02, 0x7E, 0x00, 0x04, 0x08, 0xF1, 0x03, 0x02, 0x01, 0x80, 0xA5, 0x6D, 0xFC]) } = .next t ∧
    t.res.word = 0x049C#16) ∧
  (∃ t, run 2 { State.reset with port := issued [.frameStart .byte, .frameEnd] } = .next t ∧ t.res.word = 0x0002#16)

/-- R146: the result function, in the order of its steps, and the packing of its fields. -/
def Obligations.FrameResultFollowsTheSteps : Prop :=
  (∀ r : Result, r.word = r.outcome.code ||| (bitWord r.chkValid <<< 3) ||| (r.cmd.code <<< 4) |||
    (bitWord r.verify <<< 7) ||| (r.decDetail.code <<< 8) ||| (bitWord r.hdrMatch <<< 10)) ∧
  ∀ s : State, ∃ v hdr : Bool,
    (v = true ↔ 3 ≤ s.len.toNat ∧ s.fcrc = joinBytes s.h1 s.h0) ∧
    (hdr = true ↔ s.hdrOk = true ∧ 6 ≤ s.len.toNat) ∧
    (s.decErr ≠ .none → frameResult s =
      { outcome := .decodeError, chkValid := false, cmd := .unknown, verify := false, decDetail := s.decErr,
        hdrMatch := false }) ∧
    (s.decErr = .none → s.len.toNat < 14 → frameResult s =
      { outcome := .lengthError, chkValid := false, cmd := .unknown, verify := v, decDetail := .none, hdrMatch := hdr }) ∧
    (s.decErr = .none → 14 ≤ s.len.toNat → v = false → frameResult s =
      { outcome := .checksumError, chkValid := false, cmd := .unknown, verify := false, decDetail := .none,
        hdrMatch := hdr }) ∧
    (s.decErr = .none → 14 ≤ s.len.toNat → v = true → matchCommand hdr s.t6 s.t7 s.t8 ≠ .unknown → frameResult s =
      { outcome := .recognized, chkValid := true, cmd := matchCommand hdr s.t6 s.t7 s.t8, verify := true,
        decDetail := .none, hdrMatch := hdr }) ∧
    (s.decErr = .none → 14 ≤ s.len.toNat → v = true → matchCommand hdr s.t6 s.t7 s.t8 = .unknown → frameResult s =
      { outcome := .unrecognized, chkValid := true, cmd := .unknown, verify := true, decDetail := .none,
        hdrMatch := hdr })

/-- 10_state.md R33: every field of the RES word, at its bits and with the codes of the values column (CMD: R171). -/
def Obligations.ResultWordLayout : Prop :=
  ∀ r : Result,
    r.word.extractLsb' 0 3 = (match r.outcome with
      | .none => 0#3 | .decodeError => 1#3 | .lengthError => 2#3 | .checksumError => 3#3 | .recognized => 4#3
      | .unrecognized => 5#3) ∧
    r.word.getLsbD 3 = r.chkValid ∧
    r.word.extractLsb' 4 3 = (match r.cmd with
      | .unknown => 0#3 | .allRise => 1#3 | .allDescend => 2#3 | .allStop => 3#3 | .shortFormationRise => 4#3
      | .reconnectedTrainRise => 5#3) ∧
    r.word.getLsbD 7 = r.verify ∧
    r.word.extractLsb' 8 2 = (match r.decDetail with | .none => 0#2 | .nonHex => 1#2 | .oddLength => 2#2) ∧
    r.word.getLsbD 10 = r.hdrMatch ∧
    r.word.extractLsb' 11 5 = 0

/-- R150: RESULT_READ; before a frame has finished it returns 0, in every state that meets the invariant. -/
def Obligations.ResultReadReturnsTheResult : Prop :=
  encode .resultRead = 0x8000#16 ∧ IllegalExactlyWhen 0x8 plainBad ∧
  (∀ s : State, exec .resultRead s = .next { s with resps := s.resps ++ [s.res.word] }) ∧
  (∀ s : State, Inv s → s.phase ≠ .done → exec .resultRead s = .next { s with resps := s.resps ++ [0x0000#16] }) ∧
  (∃ t, run 17 { State.reset with port := issued (classifyBytesCmds
      [0x5A, 0x02, 0x7E, 0x00, 0x04, 0x08, 0xF1, 0x03, 0x02, 0x01, 0x80, 0xA5, 0x6D, 0xFC]) } = .next t ∧
    t.resps.getLast? = some 0x049C#16)

/-- R149: VERIFY is `verifyChecksum` of the frame's bytes unless the outcome is DECODE_ERROR, and `verify b0, ..., bn-1`
gives it to the host as bit 7 of the last response, for bytes of any length. -/
def Obligations.VerifyBitIsVerifyChecksum : Prop :=
  (∀ (s : State) (bs : List Byte), FrameHolds bs s → (frameResult s).outcome ≠ .decodeError →
    (frameResult s).verify = verifyChecksum bs) ∧
  (∀ (s : State) (bs : List Byte) (rest : List PortEvent), s.port = issued (classifyBytesCmds bs) ++ rest →
    ∃ t r, run (bs.length + 3) s = .next t ∧ t.resps.getLast? = some r ∧ r.getLsbD 7 = verifyChecksum bs)

/-- R136: a BYTE frame goes through steps 3 to 6 of `classify` on the bytes given, from any state, and its outcome is never
DECODE_ERROR. -/
def Obligations.ByteFramesClassifyLikeTheSource : Prop :=
  ∀ (u : UnrecognizedMessage) (s : State) (bs orig : List Byte) (rest : List PortEvent),
    s.port = issued (classifyBytesCmds bs) ++ rest →
    ∃ t r, run (bs.length + 3) s = .next t ∧ t.port = rest ∧
      t.resps = s.resps ++ List.replicate (bs.length + 2) 0#16 ++ [r] ∧
      parseResult u r orig = some (classifyDecoded u orig bs) ∧
      t.decErr = .none ∧ t.res.outcome ≠ .decodeError

/-- R152: the commands of `classify "t"`, from any state, give the host the ParseResult that the source's `classify` gives
for `t`. The model's choices: on both sides the text of a decode error is one function of the detail code (log entry 10), and
the source reads a text as 8-bit codes with one space code (log entry 13). -/
def Obligations.TextFramesClassifyLikeTheSource : Prop :=
  ∀ (u : UnrecognizedMessage) (s : State) (text : List Byte) (rest : List PortEvent),
    s.port = issued (classifyTextCmds text) ++ rest →
    ∃ t r, run (text.length + 3) s = .next t ∧ t.port = rest ∧
      t.resps = s.resps ++ List.replicate (text.length + 2) 0#16 ++ [r] ∧
      parseResult u r text = some (classify u text) ∧
      t.acc = s.acc ∧ t.opErr = s.opErr ∧ t.errCause = s.errCause

/-- R141, R144: a text of hex digits and spaces with an odd number of digits is a DECODE_ERROR, and one with an even number
below 28 (none at all included) a LENGTH_ERROR. -/
def Obligations.ShortTextsFailByParityThenLength : Prop :=
  ∀ (s : State) (text : List Byte) (rest : List PortEvent),
    (∀ c ∈ text, c = 0x20#8 ∨ hexval c ≠ none) →
    s.port = issued (.frameStart .text :: (text.map .frameChar ++ [.frameEnd])) ++ rest →
    ∃ t, run (text.length + 2) s = .next t ∧
      ((text.filter (fun c => c ≠ 0x20#8)).length % 2 = 1 →
        t.res.outcome = .decodeError ∧ t.res.decDetail = .oddLength) ∧
      ((text.filter (fun c => c ≠ 0x20#8)).length % 2 = 0 → (text.filter (fun c => c ≠ 0x20#8)).length < 28 →
        t.res.outcome = .lengthError)

/-- R132: from FRAME_START on, the frame unit depends on the words issued since then only, whatever the state before. -/
def Obligations.EarlierStateDoesNotReachAFrame : Prop :=
  ∀ (s s' : State) (m : Mode) (ws : List Word),
    ∃ t t', run (ws.length + 1) { s with port := commands (encode (.frameStart m) :: ws) } = .next t ∧
      run (ws.length + 1) { s' with port := commands (encode (.frameStart m) :: ws) } = .next t' ∧
      frameUnit t = frameUnit t'

/-! ### Matcher and vector ROM (42_matcher.md) -/

/-- R173: the match function, with the codes of R171. -/
def Obligations.MatchFunctionIsTheTable : Prop :=
  (∀ t6 t7 t8 : Byte, (matchCommand false t6 t7 t8).code = 0) ∧
  (matchCommand true 0xF1 0x03 0x02).code = 1 ∧ (matchCommand true 0xF1 0x03 0x01).code = 2 ∧
  (matchCommand true 0xF1 0x03 0x03).code = 3 ∧ (matchCommand true 0xD1 0x03 0x02).code = 4 ∧
  (matchCommand true 0xE1 0x03 0x02).code = 5 ∧
  (∀ t6 t7 t8 : Byte,
    (t6, t7, t8) ∉ [(0xF1#8, 0x03#8, 0x02#8), (0xF1#8, 0x03#8, 0x01#8), (0xF1#8, 0x03#8, 0x03#8),
      (0xD1#8, 0x03#8, 0x02#8), (0xE1#8, 0x03#8, 0x02#8)] →
    (matchCommand true t6 t7 t8).code = 0)

/-- R172, R174: each command other than Unknown is defined by exactly one triple. -/
def Obligations.EachCommandHasOneTriple : Prop :=
  ∀ k : CommandType, k ≠ .unknown →
    ∃ a : Byte × Byte × Byte, ∀ b : Byte × Byte × Byte, matchCommand true b.1 b.2.1 b.2.2 = k ↔ b = a

/-- R182: VEC_READ, its refusal, its corner cases and its examples. -/
def Obligations.VecReadReturnsOneItem : Prop :=
  (∀ i j : Nibble, encode (.vecRead i j) = 0x9000#16 ||| (i.setWidth 16 <<< 4) ||| j.setWidth 16) ∧
  IllegalExactlyWhen 0x9 dataBad ∧
  (∀ (i j : Nibble) (s : State), 5 ≤ i.toNat → exec (.vecRead i j) s = .next (refusedWith .vecRange s)) ∧
  (∀ (i j : Nibble) (s : State), i.toNat < 5 →
    exec (.vecRead i j) s = .next { s with resps := s.resps ++ [zext16 (vecRom i j)] }) ∧
  (∀ i : Nibble, i.toNat < 5 → vecRom i 15 = 0x0E#8 ∧ (vecRom i 14).toNat = i.toNat + 1) ∧
  vecRom 3 6 = 0xD1#8 ∧ vecRom 0 13 = 0xFC#8

/-- R180, R181: every item of the vector ROM. -/
def Obligations.VectorRomContents : Prop :=
  ((List.range 14).map (fun j => vecRom 0 (BitVec.ofNat 4 j)) =
    [0x5A, 0x02, 0x7E, 0x00, 0x04, 0x08, 0xF1, 0x03, 0x02, 0x01, 0x80, 0xA5, 0x6D, 0xFC]) ∧
  ((List.range 14).map (fun j => vecRom 1 (BitVec.ofNat 4 j)) =
    [0x5A, 0x02, 0x7E, 0x00, 0x04, 0x08, 0xF1, 0x03, 0x01, 0x01, 0x7F, 0xA5, 0xD9, 0xBD]) ∧
  ((List.range 14).map (fun j => vecRom 2 (BitVec.ofNat 4 j)) =
    [0x5A, 0x02, 0x7E, 0x00, 0x04, 0x08, 0xF1, 0x03, 0x03, 0x01, 0x81, 0xA5, 0x01, 0xFC]) ∧
  ((List.range 14).map (fun j => vecRom 3 (BitVec.ofNat 4 j)) =
    [0x5A, 0x02, 0x7E, 0x00, 0x04, 0x08, 0xD1, 0x03, 0x02, 0x01, 0x60, 0xA5, 0xCD, 0xB2]) ∧
  ((List.range 14).map (fun j => vecRom 4 (BitVec.ofNat 4 j)) =
    [0x5A, 0x02, 0x7E, 0x00, 0x04, 0x08, 0xE1, 0x03, 0x02, 0x01, 0x70, 0xA5, 0xFD, 0xBA]) ∧
  (∀ i : Nibble, i.toNat < 5 → (vecRom i 14).toNat = i.toNat + 1 ∧ (vecRom i 15).toNat = 14) ∧
  (∀ i : Nibble, i.toNat < 5 → (vector i).length = 14 ∧ verifyChecksum (vector i) = true)

/-- R183: each vector, classified from any state, is recognized with its own command. -/
def Obligations.EveryVectorIsRecognized : Prop :=
  ∀ (i : Nibble) (s : State) (rest : List PortEvent), i.toNat < 5 →
    s.port = issued (classifyBytesCmds (vector i)) ++ rest →
    ∃ t, run 17 s = .next t ∧ t.resps.getLast? = some t.res.word ∧
      t.res.word = 0x048C#16 ||| ((i.setWidth 16 + 1) <<< 4) ∧
      t.res.outcome = .recognized ∧ t.res.chkValid = true ∧ t.res.cmd.code.toNat = i.toNat + 1 ∧
      t.res.verify = true ∧ t.res.hdrMatch = true

/-! ### Control commands (43_control.md) -/

/-- R200: NOP, and that no other word of its operation code is legal. -/
def Obligations.NopChangesNothing : Prop :=
  encode .nop = 0x0000#16 ∧ IllegalExactlyWhen 0x0 plainBad ∧
  (∀ w : Word, opField w = 0 → legalWord w = true → w = 0x0000#16) ∧
  (∀ s : State, exec .nop s = .next { s with resps := s.resps ++ [0#16] })

/-- R202: STATUS_READ; the fields of the word stand where 10_state.md R32 puts them, with the codes of R23 to R25 and R221, and
bit 15 reads 0. -/
def Obligations.StatusReadReturnsTheStatusWord : Prop :=
  encode .statusRead = 0xA000#16 ∧ IllegalExactlyWhen 0xA plainBad ∧
  (∀ s : State, ∃ w : Word, exec .statusRead s = .next { s with resps := s.resps ++ [w] } ∧
    w.extractLsb' 0 2 = (match s.phase with | .idle => 0#2 | .collect => 1#2 | .done => 2#2) ∧
    (w.getLsbD 2 = true ↔ s.mode = .text) ∧ w.getLsbD 3 = s.opErr ∧
    w.extractLsb' 4 3 = (match s.errCause with
      | .none => 0#3 | .illegal => 1#3 | .sequence => 2#3 | .mode => 3#3 | .vecRange => 4#3) ∧
    w.getLsbD 7 = s.nibPend ∧ w.extractLsb' 8 4 = s.len ∧
    w.extractLsb' 12 2 = (match s.decErr with | .none => 0#2 | .nonHex => 1#2 | .oddLength => 2#2) ∧
    w.getLsbD 14 = s.hdrOk ∧
    w.getLsbD 15 = false) ∧
  (∃ t, run 1 { State.reset with port := issued [.statusRead] } = .next t ∧ t.resps = [0x4000#16]) ∧
  (∃ t, run 2 { State.reset with port := issued [.frameByte 0x5A, .statusRead] } = .next t ∧
    t.resps = [0x0000#16, 0x4028#16])

/-- R203: CLEAR_ERR; an illegal word of its operation code leaves a recorded error as it is. -/
def Obligations.ClearErrClearsTheErrorRecord : Prop :=
  encode .clearErr = 0xB000#16 ∧ IllegalExactlyWhen 0xB plainBad ∧
  (∀ s : State, exec .clearErr s = .next { s with opErr := false, errCause := .none, resps := s.resps ++ [0#16] }) ∧
  (∀ s : State, Inv s → s.opErr = false → exec .clearErr s = .next { s with resps := s.resps ++ [0#16] }) ∧
  (∃ t, run 2 { State.reset with port := issued [.frameByte 0x5A, .clearErr] } = .next t ∧ statusWord t = 0x4000#16)

/-! ### Rules about the whole block -/

/-- R22 to R26, R29 to R31, R201: which commands may write each register; every other register keeps its value, whatever the
command. The byte push alone writes `FCRC`, `H1`, `H0`, `LEN`, `HDR_OK` and `T6` to `T8` of an open frame, FRAME_CHAR alone
`NIB_PEND` and `NIB`, FRAME_CHAR and FRAME_END alone `DEC_ERR`, and a refusal or CLEAR_ERR alone the error record. -/
def Obligations.OnlyTheNamedCommandsWriteEachRegister : Prop :=
  ∀ (i : Instr) (s t : State), exec i s = .next t →
    t.port = s.port ∧
    (writesAcc i = false → t.acc = s.acc) ∧
    (writesFrame i = false → frameUnit t = frameUnit s) ∧
    ((∀ m, i ≠ .frameStart m) → t.mode = s.mode) ∧
    ((∀ m, i ≠ .frameStart m) → i ≠ .frameEnd → t.res = s.res ∧ t.phase = s.phase) ∧
    (writesBytes i = false →
      t.fcrc = s.fcrc ∧ t.h1 = s.h1 ∧ t.h0 = s.h0 ∧ t.len = s.len ∧ t.hdrOk = s.hdrOk ∧
      t.t6 = s.t6 ∧ t.t7 = s.t7 ∧ t.t8 = s.t8) ∧
    (writesNibble i = false → t.nibPend = s.nibPend ∧ t.nib = s.nib) ∧
    (writesNibble i = false → i ≠ .frameEnd → t.decErr = s.decErr) ∧
    (i = .frameEnd → t.decErr = s.decErr ∨ t.decErr = .oddLength) ∧
    (refusalCause i s = none → i ≠ .clearErr → t.opErr = s.opErr ∧ t.errCause = s.errCause) ∧
    (i ≠ .clearErr → s.opErr = true → t.opErr = true ∧ t.errCause = s.errCause)

/-- R26, R182, R201, R204: words that are not commands of the frame unit may be interleaved with a frame: leaving them out
gives the same frame unit. -/
def Obligations.OtherUnitsDoNotDisturbAFrame : Prop :=
  ∀ (s : State) (ws : List Word),
    let frameWord := fun w => match decode w with | .ok i => writesFrame i | .illegal _ => false
    ∃ t t', run ws.length { s with port := commands ws } = .next t ∧
      run (ws.filter frameWord).length { s with port := commands (ws.filter frameWord) } = .next t' ∧
      frameUnit t = frameUnit t'

/-- R57: the read commands change no state, so a read issued twice in a row returns the same word twice. -/
def Obligations.ReadsChangeNothingAndRepeat : Prop :=
  ∀ (i : Instr) (s : State), isRead i = true →
    ∃ r, exec i s = .next { s with resps := s.resps ++ [r] } ∧
      exec i { s with resps := s.resps ++ [r] } = .next { s with resps := s.resps ++ [r] ++ [r] }

/-- The invariant of the registers (R25, R29, R31, R134, R136, R145) is kept by every step, from every state that meets it. -/
def Obligations.EveryStepKeepsTheInvariant : Prop :=
  ∀ s t : State, Inv s → step s = .next t → Inv t

/-- The reset state meets the invariant (R37). -/
def Obligations.ResetMeetsTheInvariant : Prop :=
  Inv State.reset

/-! ### Host side: assembler (R81, R82) and result mapping (R151) -/

/-- R81: the word of every line of the assembler, and that an operand out of range is an error. The model's choices (log entry
12): the ranges themselves, where R81 says only "in range" (indices of `vec.read` 0 to 15, 5 and above included; numbers of
`crc.byte`, `frame.byte` and `frame.char` 0 to 255), and the lexical form of the texts. -/
def Obligations.AssemblerGivesTheWordsOfTheSyntax : Prop :=
  assembleText "nop\ncrc.init\ncrc.byte 0x5A ; a byte\ncrc.read".toList =
    some [0x0000#16, 0x1000#16, 0x205A#16, 0x3000#16] ∧
  assembleText "frame.start byte\nframe.start text\nframe.byte 90\nframe.char 'A'\nframe.char 0x61\nframe.end".toList =
    some [0x4000#16, 0x4100#16, 0x505A#16, 0x6041#16, 0x6061#16, 0x7000#16] ∧
  assembleText "result.read\nvec.read 3, 6\nstatus.read\nerr.clear".toList =
    some [0x8000#16, 0x9036#16, 0xA000#16, 0xB000#16] ∧
  (∀ d : Nat, d < 256 →
    assembleLine (.crcByte d) = some [0x2000#16 ||| BitVec.ofNat 16 d] ∧
    assembleLine (.frameByte d) = some [0x5000#16 ||| BitVec.ofNat 16 d] ∧
    assembleLine (.frameChar d) = some [0x6000#16 ||| BitVec.ofNat 16 d]) ∧
  (∀ i j : Nat, i < 16 → j < 16 →
    assembleLine (.vecRead i j) = some [0x9000#16 ||| (BitVec.ofNat 16 i <<< 4) ||| BitVec.ofNat 16 j]) ∧
  (∀ d : Nat, 256 ≤ d →
    assembleLine (.crcByte d) = none ∧ assembleLine (.frameByte d) = none ∧ assembleLine (.frameChar d) = none) ∧
  (∀ i j : Nat, 16 ≤ i ∨ 16 ≤ j → assembleLine (.vecRead i j) = none)

/-- R82: the expansion of every pseudo-instruction, in order, and what cannot be assembled. The model's choice (log entry 12):
`vec.frame` of 5 to 15 is in range, and a `verify` without operands is read. -/
def Obligations.PseudoInstructionsExpand : Prop :=
  (∀ bs : List Nat, (∀ b ∈ bs, b < 256) →
    assembleLine (.crcCompute bs) =
      some ([0x1000#16] ++ bs.map (fun b => 0x2000#16 ||| BitVec.ofNat 16 b) ++ [0x3000#16]) ∧
    assembleLine (.frameBytes bs) =
      some ([0x4000#16] ++ bs.map (fun b => 0x5000#16 ||| BitVec.ofNat 16 b) ++ [0x7000#16]) ∧
    assembleLine (.verify bs) =
      some ([0x4000#16] ++ bs.map (fun b => 0x5000#16 ||| BitVec.ofNat 16 b) ++ [0x7000#16, 0x8000#16]) ∧
    assembleLine (.classifyBytes bs) = assembleLine (.verify bs)) ∧
  (∀ text : List Nat, (∀ c ∈ text, c < 128) →
    assembleLine (.classify text) =
      some ([0x4100#16] ++ text.map (fun c => 0x6000#16 ||| BitVec.ofNat 16 c) ++ [0x7000#16, 0x8000#16])) ∧
  (∀ text : List Nat, (∃ c ∈ text, 0x7F < c) → assembleLine (.classify text) = none) ∧
  (∀ i : Nat, i < 16 →
    assembleLine (.vecFrame i) =
      some ((List.range 15).map (fun j => 0x9000#16 ||| (BitVec.ofNat 16 i <<< 4) ||| BitVec.ofNat 16 j))) ∧
  assembleText "crc.compute 1, 0x02\nverify\nclassify \"5 A\"".toList =
    some [0x1000#16, 0x2001#16, 0x2002#16, 0x3000#16, 0x4000#16, 0x7000#16, 0x8000#16,
      0x4100#16, 0x6035#16, 0x6020#16, 0x6041#16, 0x7000#16, 0x8000#16] ∧
  (∃ t, run 2 { State.reset with port := issued (crcComputeCmds []) } = .next t ∧ t.resps.getLast? = some 0xFFFF#16)

/-- R151: the host's reading of the RES word of a finished frame, field by field, with the names of R176. -/
def Obligations.HostReadsTheResultWord : Prop :=
  commandName 0 = "unknown" ∧ commandName 1 = "全部上升" ∧
  (∀ k : Nat, 2 ≤ k → k ≤ 5 → commandName k = Config.cmdName k) ∧
  ∀ (r : Result) (text : List Byte), r.outcome ≠ .none →
    parseResult .marker r.word text = some
      { checksumValid := r.chkValid
        commandType := r.cmd
        commandName := commandName r.cmd.code.toNat
        errorMessage :=
          match r.outcome with
          | .decodeError => some ("hex decode error: " ++ Config.decodeDetail r.decDetail.code.toNat)
          | .lengthError => some "insufficient frame length"
          | .checksumError => some "checksum verification failed"
          | .unrecognized => some "checksum valid but command unrecognized"
          | .recognized => none
          | .none => none
        originalHex := text }
end

