-- ==== Sys2Proof/Laws/State.lean ====
section
/-! SUPPORT. One lemma per field per named update of the state, each true by unfolding the update once. -/

namespace Sys2Proof.Machine

/-! ### Fields after giving a response -/

@[simp] theorem respond_acc (w : Word) (s : State) : (respond w s).acc = s.acc := rfl
@[simp] theorem respond_mode (w : Word) (s : State) : (respond w s).mode = s.mode := rfl
@[simp] theorem respond_phase (w : Word) (s : State) : (respond w s).phase = s.phase := rfl
@[simp] theorem respond_fcrc (w : Word) (s : State) : (respond w s).fcrc = s.fcrc := rfl
@[simp] theorem respond_h1 (w : Word) (s : State) : (respond w s).h1 = s.h1 := rfl
@[simp] theorem respond_h0 (w : Word) (s : State) : (respond w s).h0 = s.h0 := rfl
@[simp] theorem respond_len (w : Word) (s : State) : (respond w s).len = s.len := rfl
@[simp] theorem respond_hdrOk (w : Word) (s : State) : (respond w s).hdrOk = s.hdrOk := rfl
@[simp] theorem respond_t6 (w : Word) (s : State) : (respond w s).t6 = s.t6 := rfl
@[simp] theorem respond_t7 (w : Word) (s : State) : (respond w s).t7 = s.t7 := rfl
@[simp] theorem respond_t8 (w : Word) (s : State) : (respond w s).t8 = s.t8 := rfl
@[simp] theorem respond_nibPend (w : Word) (s : State) : (respond w s).nibPend = s.nibPend := rfl
@[simp] theorem respond_nib (w : Word) (s : State) : (respond w s).nib = s.nib := rfl
@[simp] theorem respond_decErr (w : Word) (s : State) : (respond w s).decErr = s.decErr := rfl
@[simp] theorem respond_res (w : Word) (s : State) : (respond w s).res = s.res := rfl
@[simp] theorem respond_opErr (w : Word) (s : State) : (respond w s).opErr = s.opErr := rfl
@[simp] theorem respond_errCause (w : Word) (s : State) : (respond w s).errCause = s.errCause := rfl
@[simp] theorem respond_port (w : Word) (s : State) : (respond w s).port = s.port := rfl
@[simp] theorem respond_resps (w : Word) (s : State) : (respond w s).resps = s.resps ++ [w] := rfl

/-! ### Fields after refusing a command -/

@[simp] theorem raiseOpError_acc (c : ErrCause) (s : State) : (raiseOpError c s).acc = s.acc := rfl
@[simp] theorem raiseOpError_mode (c : ErrCause) (s : State) : (raiseOpError c s).mode = s.mode := rfl
@[simp] theorem raiseOpError_phase (c : ErrCause) (s : State) : (raiseOpError c s).phase = s.phase := rfl
@[simp] theorem raiseOpError_fcrc (c : ErrCause) (s : State) : (raiseOpError c s).fcrc = s.fcrc := rfl
@[simp] theorem raiseOpError_h1 (c : ErrCause) (s : State) : (raiseOpError c s).h1 = s.h1 := rfl
@[simp] theorem raiseOpError_h0 (c : ErrCause) (s : State) : (raiseOpError c s).h0 = s.h0 := rfl
@[simp] theorem raiseOpError_len (c : ErrCause) (s : State) : (raiseOpError c s).len = s.len := rfl
@[simp] theorem raiseOpError_hdrOk (c : ErrCause) (s : State) : (raiseOpError c s).hdrOk = s.hdrOk := rfl
@[simp] theorem raiseOpError_t6 (c : ErrCause) (s : State) : (raiseOpError c s).t6 = s.t6 := rfl
@[simp] theorem raiseOpError_t7 (c : ErrCause) (s : State) : (raiseOpError c s).t7 = s.t7 := rfl
@[simp] theorem raiseOpError_t8 (c : ErrCause) (s : State) : (raiseOpError c s).t8 = s.t8 := rfl
@[simp] theorem raiseOpError_nibPend (c : ErrCause) (s : State) : (raiseOpError c s).nibPend = s.nibPend := rfl
@[simp] theorem raiseOpError_nib (c : ErrCause) (s : State) : (raiseOpError c s).nib = s.nib := rfl
@[simp] theorem raiseOpError_decErr (c : ErrCause) (s : State) : (raiseOpError c s).decErr = s.decErr := rfl
@[simp] theorem raiseOpError_res (c : ErrCause) (s : State) : (raiseOpError c s).res = s.res := rfl
@[simp] theorem raiseOpError_opErr (c : ErrCause) (s : State) : (raiseOpError c s).opErr = true := rfl
@[simp] theorem raiseOpError_errCause (c : ErrCause) (s : State) : (raiseOpError c s).errCause = (if s.opErr then s.errCause else c) := rfl
@[simp] theorem raiseOpError_port (c : ErrCause) (s : State) : (raiseOpError c s).port = s.port := rfl
@[simp] theorem raiseOpError_resps (c : ErrCause) (s : State) : (raiseOpError c s).resps = s.resps ++ [0] := rfl

/-! ### Fields after clearing the error record -/

@[simp] theorem clearErrorRecord_acc (s : State) : (clearErrorRecord s).acc = s.acc := rfl
@[simp] theorem clearErrorRecord_mode (s : State) : (clearErrorRecord s).mode = s.mode := rfl
@[simp] theorem clearErrorRecord_phase (s : State) : (clearErrorRecord s).phase = s.phase := rfl
@[simp] theorem clearErrorRecord_fcrc (s : State) : (clearErrorRecord s).fcrc = s.fcrc := rfl
@[simp] theorem clearErrorRecord_h1 (s : State) : (clearErrorRecord s).h1 = s.h1 := rfl
@[simp] theorem clearErrorRecord_h0 (s : State) : (clearErrorRecord s).h0 = s.h0 := rfl
@[simp] theorem clearErrorRecord_len (s : State) : (clearErrorRecord s).len = s.len := rfl
@[simp] theorem clearErrorRecord_hdrOk (s : State) : (clearErrorRecord s).hdrOk = s.hdrOk := rfl
@[simp] theorem clearErrorRecord_t6 (s : State) : (clearErrorRecord s).t6 = s.t6 := rfl
@[simp] theorem clearErrorRecord_t7 (s : State) : (clearErrorRecord s).t7 = s.t7 := rfl
@[simp] theorem clearErrorRecord_t8 (s : State) : (clearErrorRecord s).t8 = s.t8 := rfl
@[simp] theorem clearErrorRecord_nibPend (s : State) : (clearErrorRecord s).nibPend = s.nibPend := rfl
@[simp] theorem clearErrorRecord_nib (s : State) : (clearErrorRecord s).nib = s.nib := rfl
@[simp] theorem clearErrorRecord_decErr (s : State) : (clearErrorRecord s).decErr = s.decErr := rfl
@[simp] theorem clearErrorRecord_res (s : State) : (clearErrorRecord s).res = s.res := rfl
@[simp] theorem clearErrorRecord_opErr (s : State) : (clearErrorRecord s).opErr = false := rfl
@[simp] theorem clearErrorRecord_errCause (s : State) : (clearErrorRecord s).errCause = .none := rfl
@[simp] theorem clearErrorRecord_port (s : State) : (clearErrorRecord s).port = s.port := rfl
@[simp] theorem clearErrorRecord_resps (s : State) : (clearErrorRecord s).resps = s.resps := rfl

/-! ### Fields after reset -/

@[simp] theorem applyReset_acc (s : State) : (applyReset s).acc = State.reset.acc := rfl
@[simp] theorem applyReset_mode (s : State) : (applyReset s).mode = State.reset.mode := rfl
@[simp] theorem applyReset_phase (s : State) : (applyReset s).phase = State.reset.phase := rfl
@[simp] theorem applyReset_fcrc (s : State) : (applyReset s).fcrc = State.reset.fcrc := rfl
@[simp] theorem applyReset_h1 (s : State) : (applyReset s).h1 = State.reset.h1 := rfl
@[simp] theorem applyReset_h0 (s : State) : (applyReset s).h0 = State.reset.h0 := rfl
@[simp] theorem applyReset_len (s : State) : (applyReset s).len = State.reset.len := rfl
@[simp] theorem applyReset_hdrOk (s : State) : (applyReset s).hdrOk = State.reset.hdrOk := rfl
@[simp] theorem applyReset_t6 (s : State) : (applyReset s).t6 = State.reset.t6 := rfl
@[simp] theorem applyReset_t7 (s : State) : (applyReset s).t7 = State.reset.t7 := rfl
@[simp] theorem applyReset_t8 (s : State) : (applyReset s).t8 = State.reset.t8 := rfl
@[simp] theorem applyReset_nibPend (s : State) : (applyReset s).nibPend = State.reset.nibPend := rfl
@[simp] theorem applyReset_nib (s : State) : (applyReset s).nib = State.reset.nib := rfl
@[simp] theorem applyReset_decErr (s : State) : (applyReset s).decErr = State.reset.decErr := rfl
@[simp] theorem applyReset_res (s : State) : (applyReset s).res = State.reset.res := rfl
@[simp] theorem applyReset_opErr (s : State) : (applyReset s).opErr = State.reset.opErr := rfl
@[simp] theorem applyReset_errCause (s : State) : (applyReset s).errCause = State.reset.errCause := rfl
@[simp] theorem applyReset_port (s : State) : (applyReset s).port = s.port := rfl
@[simp] theorem applyReset_resps (s : State) : (applyReset s).resps = s.resps := rfl

/-! ### Fields after opening a frame -/

@[simp] theorem openFrame_acc (m : Mode) (s : State) : (openFrame m s).acc = s.acc := rfl
@[simp] theorem openFrame_mode (m : Mode) (s : State) : (openFrame m s).mode = m := rfl
@[simp] theorem openFrame_phase (m : Mode) (s : State) : (openFrame m s).phase = .collect := rfl
@[simp] theorem openFrame_fcrc (m : Mode) (s : State) : (openFrame m s).fcrc = 0xFFFF#16 := rfl
@[simp] theorem openFrame_h1 (m : Mode) (s : State) : (openFrame m s).h1 = 0 := rfl
@[simp] theorem openFrame_h0 (m : Mode) (s : State) : (openFrame m s).h0 = 0 := rfl
@[simp] theorem openFrame_len (m : Mode) (s : State) : (openFrame m s).len = 0 := rfl
@[simp] theorem openFrame_hdrOk (m : Mode) (s : State) : (openFrame m s).hdrOk = true := rfl
@[simp] theorem openFrame_t6 (m : Mode) (s : State) : (openFrame m s).t6 = 0 := rfl
@[simp] theorem openFrame_t7 (m : Mode) (s : State) : (openFrame m s).t7 = 0 := rfl
@[simp] theorem openFrame_t8 (m : Mode) (s : State) : (openFrame m s).t8 = 0 := rfl
@[simp] theorem openFrame_nibPend (m : Mode) (s : State) : (openFrame m s).nibPend = false := rfl
@[simp] theorem openFrame_nib (m : Mode) (s : State) : (openFrame m s).nib = 0 := rfl
@[simp] theorem openFrame_decErr (m : Mode) (s : State) : (openFrame m s).decErr = .none := rfl
@[simp] theorem openFrame_res (m : Mode) (s : State) : (openFrame m s).res = Result.cleared := rfl
@[simp] theorem openFrame_opErr (m : Mode) (s : State) : (openFrame m s).opErr = s.opErr := rfl
@[simp] theorem openFrame_errCause (m : Mode) (s : State) : (openFrame m s).errCause = s.errCause := rfl
@[simp] theorem openFrame_port (m : Mode) (s : State) : (openFrame m s).port = s.port := rfl
@[simp] theorem openFrame_resps (m : Mode) (s : State) : (openFrame m s).resps = s.resps := rfl

/-! ### Fields after the byte push -/

@[simp] theorem push_acc (d : Byte) (s : State) : (push d s).acc = s.acc := rfl
@[simp] theorem push_mode (d : Byte) (s : State) : (push d s).mode = s.mode := rfl
@[simp] theorem push_phase (d : Byte) (s : State) : (push d s).phase = s.phase := rfl
@[simp] theorem push_fcrc (d : Byte) (s : State) : (push d s).fcrc = (if 2 ≤ s.len.toNat then crcStep s.fcrc s.h1 else s.fcrc) := rfl
@[simp] theorem push_h1 (d : Byte) (s : State) : (push d s).h1 = s.h0 := rfl
@[simp] theorem push_h0 (d : Byte) (s : State) : (push d s).h0 = d := rfl
@[simp] theorem push_len (d : Byte) (s : State) : (push d s).len = nextLen s.len := rfl
@[simp] theorem push_hdrOk (d : Byte) (s : State) : (push d s).hdrOk = (if s.len.toNat ≤ 5 then s.hdrOk && (d == Config.header.getD s.len.toNat 0) else s.hdrOk) := rfl
@[simp] theorem push_t6 (d : Byte) (s : State) : (push d s).t6 = (if s.len.toNat = 6 then d else s.t6) := rfl
@[simp] theorem push_t7 (d : Byte) (s : State) : (push d s).t7 = (if s.len.toNat = 7 then d else s.t7) := rfl
@[simp] theorem push_t8 (d : Byte) (s : State) : (push d s).t8 = (if s.len.toNat = 8 then d else s.t8) := rfl
@[simp] theorem push_nibPend (d : Byte) (s : State) : (push d s).nibPend = s.nibPend := rfl
@[simp] theorem push_nib (d : Byte) (s : State) : (push d s).nib = s.nib := rfl
@[simp] theorem push_decErr (d : Byte) (s : State) : (push d s).decErr = s.decErr := rfl
@[simp] theorem push_res (d : Byte) (s : State) : (push d s).res = s.res := rfl
@[simp] theorem push_opErr (d : Byte) (s : State) : (push d s).opErr = s.opErr := rfl
@[simp] theorem push_errCause (d : Byte) (s : State) : (push d s).errCause = s.errCause := rfl
@[simp] theorem push_port (d : Byte) (s : State) : (push d s).port = s.port := rfl
@[simp] theorem push_resps (d : Byte) (s : State) : (push d s).resps = s.resps := rfl

/-! ### Fields after placing the next command -/

@[simp] theorem issueNext_acc (w : Word) (s : State) : (issueNext w s).acc = s.acc := rfl
@[simp] theorem issueNext_mode (w : Word) (s : State) : (issueNext w s).mode = s.mode := rfl
@[simp] theorem issueNext_phase (w : Word) (s : State) : (issueNext w s).phase = s.phase := rfl
@[simp] theorem issueNext_fcrc (w : Word) (s : State) : (issueNext w s).fcrc = s.fcrc := rfl
@[simp] theorem issueNext_h1 (w : Word) (s : State) : (issueNext w s).h1 = s.h1 := rfl
@[simp] theorem issueNext_h0 (w : Word) (s : State) : (issueNext w s).h0 = s.h0 := rfl
@[simp] theorem issueNext_len (w : Word) (s : State) : (issueNext w s).len = s.len := rfl
@[simp] theorem issueNext_hdrOk (w : Word) (s : State) : (issueNext w s).hdrOk = s.hdrOk := rfl
@[simp] theorem issueNext_t6 (w : Word) (s : State) : (issueNext w s).t6 = s.t6 := rfl
@[simp] theorem issueNext_t7 (w : Word) (s : State) : (issueNext w s).t7 = s.t7 := rfl
@[simp] theorem issueNext_t8 (w : Word) (s : State) : (issueNext w s).t8 = s.t8 := rfl
@[simp] theorem issueNext_nibPend (w : Word) (s : State) : (issueNext w s).nibPend = s.nibPend := rfl
@[simp] theorem issueNext_nib (w : Word) (s : State) : (issueNext w s).nib = s.nib := rfl
@[simp] theorem issueNext_decErr (w : Word) (s : State) : (issueNext w s).decErr = s.decErr := rfl
@[simp] theorem issueNext_res (w : Word) (s : State) : (issueNext w s).res = s.res := rfl
@[simp] theorem issueNext_opErr (w : Word) (s : State) : (issueNext w s).opErr = s.opErr := rfl
@[simp] theorem issueNext_errCause (w : Word) (s : State) : (issueNext w s).errCause = s.errCause := rfl
@[simp] theorem issueNext_port (w : Word) (s : State) : (issueNext w s).port = .command w :: s.port := rfl
@[simp] theorem issueNext_resps (w : Word) (s : State) : (issueNext w s).resps = s.resps := rfl

/-! ### Fields after replacing the events to come -/

@[simp] theorem setPort_acc (p : List PortEvent) (s : State) : (setPort p s).acc = s.acc := rfl
@[simp] theorem setPort_mode (p : List PortEvent) (s : State) : (setPort p s).mode = s.mode := rfl
@[simp] theorem setPort_phase (p : List PortEvent) (s : State) : (setPort p s).phase = s.phase := rfl
@[simp] theorem setPort_fcrc (p : List PortEvent) (s : State) : (setPort p s).fcrc = s.fcrc := rfl
@[simp] theorem setPort_h1 (p : List PortEvent) (s : State) : (setPort p s).h1 = s.h1 := rfl
@[simp] theorem setPort_h0 (p : List PortEvent) (s : State) : (setPort p s).h0 = s.h0 := rfl
@[simp] theorem setPort_len (p : List PortEvent) (s : State) : (setPort p s).len = s.len := rfl
@[simp] theorem setPort_hdrOk (p : List PortEvent) (s : State) : (setPort p s).hdrOk = s.hdrOk := rfl
@[simp] theorem setPort_t6 (p : List PortEvent) (s : State) : (setPort p s).t6 = s.t6 := rfl
@[simp] theorem setPort_t7 (p : List PortEvent) (s : State) : (setPort p s).t7 = s.t7 := rfl
@[simp] theorem setPort_t8 (p : List PortEvent) (s : State) : (setPort p s).t8 = s.t8 := rfl
@[simp] theorem setPort_nibPend (p : List PortEvent) (s : State) : (setPort p s).nibPend = s.nibPend := rfl
@[simp] theorem setPort_nib (p : List PortEvent) (s : State) : (setPort p s).nib = s.nib := rfl
@[simp] theorem setPort_decErr (p : List PortEvent) (s : State) : (setPort p s).decErr = s.decErr := rfl
@[simp] theorem setPort_res (p : List PortEvent) (s : State) : (setPort p s).res = s.res := rfl
@[simp] theorem setPort_opErr (p : List PortEvent) (s : State) : (setPort p s).opErr = s.opErr := rfl
@[simp] theorem setPort_errCause (p : List PortEvent) (s : State) : (setPort p s).errCause = s.errCause := rfl
@[simp] theorem setPort_port (p : List PortEvent) (s : State) : (setPort p s).port = p := rfl
@[simp] theorem setPort_resps (p : List PortEvent) (s : State) : (setPort p s).resps = s.resps := rfl

end Sys2Proof.Machine
end

