-- ==== Sys2Proof/Laws/Ops.lean ====
section
/-! SUPPORT. What each shared operation can do, said once: the saturating counter, the hex front end, closing a frame, the
refusal record, performing a word, and running several steps. Later proofs cite these and do not unfold the operations. -/

namespace Sys2Proof.Machine

/-- `LEN` after a push, as a number (10_state.md R27). -/
@[simp] theorem nextLen_toNat (l : Nibble) : (nextLen l).toNat = min (l.toNat + 1) 15 := by
  have h : min (l.toNat + 1) 15 < 16 := by omega
  simp [nextLen, Config.lenMax, BitVec.toNat_ofNat, Nat.mod_eq_of_lt h]

/-- The same block with another outside: the events still to come and the responses given so far. -/
def setOutside (p : List PortEvent) (q : List Word) (s : State) : State :=
  { s with port := p, resps := q }

/-! Fields after replacing the outside. -/

@[simp] theorem setOutside_acc (p : List PortEvent) (q : List Word) (s : State) :
    (setOutside p q s).acc = s.acc := rfl
@[simp] theorem setOutside_mode (p : List PortEvent) (q : List Word) (s : State) :
    (setOutside p q s).mode = s.mode := rfl
@[simp] theorem setOutside_phase (p : List PortEvent) (q : List Word) (s : State) :
    (setOutside p q s).phase = s.phase := rfl
@[simp] theorem setOutside_fcrc (p : List PortEvent) (q : List Word) (s : State) :
    (setOutside p q s).fcrc = s.fcrc := rfl
@[simp] theorem setOutside_h1 (p : List PortEvent) (q : List Word) (s : State) :
    (setOutside p q s).h1 = s.h1 := rfl
@[simp] theorem setOutside_h0 (p : List PortEvent) (q : List Word) (s : State) :
    (setOutside p q s).h0 = s.h0 := rfl
@[simp] theorem setOutside_len (p : List PortEvent) (q : List Word) (s : State) :
    (setOutside p q s).len = s.len := rfl
@[simp] theorem setOutside_hdrOk (p : List PortEvent) (q : List Word) (s : State) :
    (setOutside p q s).hdrOk = s.hdrOk := rfl
@[simp] theorem setOutside_t6 (p : List PortEvent) (q : List Word) (s : State) :
    (setOutside p q s).t6 = s.t6 := rfl
@[simp] theorem setOutside_t7 (p : List PortEvent) (q : List Word) (s : State) :
    (setOutside p q s).t7 = s.t7 := rfl
@[simp] theorem setOutside_t8 (p : List PortEvent) (q : List Word) (s : State) :
    (setOutside p q s).t8 = s.t8 := rfl
@[simp] theorem setOutside_nibPend (p : List PortEvent) (q : List Word) (s : State) :
    (setOutside p q s).nibPend = s.nibPend := rfl
@[simp] theorem setOutside_nib (p : List PortEvent) (q : List Word) (s : State) :
    (setOutside p q s).nib = s.nib := rfl
@[simp] theorem setOutside_decErr (p : List PortEvent) (q : List Word) (s : State) :
    (setOutside p q s).decErr = s.decErr := rfl
@[simp] theorem setOutside_res (p : List PortEvent) (q : List Word) (s : State) :
    (setOutside p q s).res = s.res := rfl
@[simp] theorem setOutside_opErr (p : List PortEvent) (q : List Word) (s : State) :
    (setOutside p q s).opErr = s.opErr := rfl
@[simp] theorem setOutside_errCause (p : List PortEvent) (q : List Word) (s : State) :
    (setOutside p q s).errCause = s.errCause := rfl
@[simp] theorem setOutside_port (p : List PortEvent) (q : List Word) (s : State) :
    (setOutside p q s).port = p := rfl
@[simp] theorem setOutside_resps (p : List PortEvent) (q : List Word) (s : State) :
    (setOutside p q s).resps = q := rfl

/-- The update of `setPort` and of `respond` as one of the outside. -/
theorem setPort_eq (p : List PortEvent) (s : State) : setPort p s = setOutside p s.resps s := rfl

theorem respond_eq (w : Word) (s : State) : respond w s = setOutside s.port (s.resps ++ [w]) s := rfl

/-- A later outside replaces an earlier one. -/
@[simp] theorem setOutside_twice (p p' : List PortEvent) (q q' : List Word) (s : State) :
    setOutside p q (setOutside p' q' s) = setOutside p q s := rfl

/-- The block's own outside changes nothing. -/
@[simp] theorem setOutside_self (s : State) : setOutside s.port s.resps s = s := rfl

/-- A push does not look at the outside. -/
theorem push_setOutside (d : Byte) (p : List PortEvent) (q : List Word) (s : State) :
    push d (setOutside p q s) = setOutside p q (push d s) := rfl

/-- Opening a frame does not look at the outside. -/
theorem openFrame_setOutside (m : Mode) (p : List PortEvent) (q : List Word) (s : State) :
    openFrame m (setOutside p q s) = setOutside p q (openFrame m s) := rfl

/-- The hex front end does not look at the outside. -/
theorem takeChar_setOutside (c : Byte) (p : List PortEvent) (q : List Word) (s : State) :
    takeChar c (setOutside p q s) = setOutside p q (takeChar c s) := by
  by_cases he : s.decErr = .none
  · by_cases hc : c = spaceCode
    · simp [takeChar, setOutside, hc]
    · cases hv : hexval c with
      | none => simp [takeChar, setOutside, he, hc, hv]
      | some v => cases hp : s.nibPend <;> simp [takeChar, setOutside, he, hc, hv, takeDigit, hp, push]
  · simp [takeChar, setOutside, he]

/-- Everything the hex front end can do with one character (41_frame.md R137). -/
theorem takeChar_cases (c : Byte) (s : State) :
    (s.decErr ≠ .none ∧ takeChar c s = s) ∨
    (s.decErr = .none ∧ c = spaceCode ∧ takeChar c s = s) ∨
    (s.decErr = .none ∧ c ≠ spaceCode ∧ ∃ v, hexval c = some v ∧ s.nibPend = false ∧
      takeChar c s = { s with nib := v, nibPend := true }) ∨
    (s.decErr = .none ∧ c ≠ spaceCode ∧ ∃ v, hexval c = some v ∧ s.nibPend = true ∧
      takeChar c s = { push (joinNibbles s.nib v) s with nib := 0, nibPend := false }) ∨
    (s.decErr = .none ∧ c ≠ spaceCode ∧ hexval c = none ∧ takeChar c s = { s with decErr := .nonHex }) := by
  by_cases he : s.decErr = .none
  · by_cases hc : c = spaceCode
    · exact .inr (.inl ⟨he, hc, by simp [takeChar, hc]⟩)
    · cases hv : hexval c with
      | none => exact .inr (.inr (.inr (.inr ⟨he, hc, rfl, by simp [takeChar, he, hc, hv]⟩)))
      | some v =>
        cases hp : s.nibPend with
        | false => exact .inr (.inr (.inl ⟨he, hc, v, rfl, rfl, by simp [takeChar, he, hc, hv, takeDigit, hp]⟩))
        | true => exact .inr (.inr (.inr (.inl ⟨he, hc, v, rfl, rfl, by simp [takeChar, he, hc, hv, takeDigit, hp]⟩)))
  · exact .inl ⟨he, by simp [takeChar, he]⟩

/-- A character touches only the frame's registers. -/
theorem takeChar_frame (c : Byte) (s : State) :
    (takeChar c s).acc = s.acc ∧ (takeChar c s).mode = s.mode ∧ (takeChar c s).phase = s.phase ∧
    (takeChar c s).res = s.res ∧ (takeChar c s).opErr = s.opErr ∧ (takeChar c s).errCause = s.errCause ∧
    (takeChar c s).port = s.port ∧ (takeChar c s).resps = s.resps := by
  obtain ⟨-, h⟩ | ⟨-, -, h⟩ | ⟨-, -, v, -, -, h⟩ | ⟨-, -, v, -, -, h⟩ | ⟨-, -, -, h⟩ := takeChar_cases c s <;>
    simp [h]

/-- What the ODD_LENGTH check leaves in `DEC_ERR` (41_frame.md R145). -/
theorem finishText_eq (s : State) :
    finishText s = { s with decErr :=
      if s.mode = .text ∧ s.decErr = .none ∧ s.nibPend = true then .oddLength else s.decErr } := by
  unfold finishText
  split <;> simp [*]

/-- Everything FRAME_END writes (41_frame.md R145). -/
theorem closeFrame_eq (s : State) :
    closeFrame s = { s with
      decErr := if s.mode = .text ∧ s.decErr = .none ∧ s.nibPend = true then .oddLength else s.decErr
      res := frameResult (finishText s)
      phase := .done } := by
  simp only [closeFrame, finishText_eq]

/-- The result depends on the frame registers only: equal registers give equal results (41_frame.md R146). -/
theorem frameResult_congr {s t : State} (hl : t.len = s.len) (hf : t.fcrc = s.fcrc) (h1 : t.h1 = s.h1) (h0 : t.h0 = s.h0)
    (hh : t.hdrOk = s.hdrOk) (h6 : t.t6 = s.t6) (h7 : t.t7 = s.t7) (h8 : t.t8 = s.t8) (hd : t.decErr = s.decErr) :
    frameResult t = frameResult s := by
  cases s
  cases t
  subst hl hf h1 h0 hh h6 h7 h8 hd
  rfl

/-- Closing a frame does not look at the outside. -/
theorem closeFrame_setOutside (p : List PortEvent) (q : List Word) (s : State) :
    closeFrame (setOutside p q s) = setOutside p q (closeFrame s) := by
  have hr : frameResult (finishText (setOutside p q s)) = frameResult (finishText s) := by
    rw [finishText_eq, finishText_eq]
    exact frameResult_congr rfl rfl rfl rfl rfl rfl rfl rfl rfl
  rw [closeFrame_eq, closeFrame_eq, hr]
  rfl

/-- The refusal operation is the record of 60_exceptions.md R222. -/
theorem raiseOpError_eq (c : ErrCause) (s : State) : raiseOpError c s = refusedWith c s := rfl

/-- Once something is recorded, a refusal keeps the first cause (60_exceptions.md R222). -/
theorem raiseOpError_again (c : ErrCause) {s : State} (h : s.opErr = true) :
    raiseOpError c s = respond 0 s := by
  have : s = { s with opErr := true } := by cases s; simp_all
  simp only [raiseOpError, h, if_true]
  rw [← this]

/-- Everything a command can do: it is refused with its cause, or performed with its response. -/
theorem exec_cases (i : Instr) (s : State) :
    (∃ c, refusalCause i s = some c ∧ exec i s = .next (raiseOpError c s)) ∨
    (refusalCause i s = none ∧ exec i s = .next (respond (responseWord i s) (performed i s))) := by
  cases i with
  | nop => exact .inr ⟨rfl, rfl⟩
  | crcInit => exact .inr ⟨rfl, rfl⟩
  | crcByte d => exact .inr ⟨rfl, rfl⟩
  | crcRead => exact .inr ⟨rfl, rfl⟩
  | frameStart m => exact .inr ⟨rfl, rfl⟩
  | frameByte d =>
    by_cases hp : s.phase = .collect <;> cases hm : s.mode <;>
      simp [refusalCause, exec, execFrameByte, responseWord, performed, hp, hm]
  | frameChar c =>
    by_cases hp : s.phase = .collect <;> cases hm : s.mode <;>
      simp [refusalCause, exec, execFrameChar, responseWord, performed, hp, hm]
  | frameEnd =>
    by_cases hp : s.phase = .collect <;> simp [refusalCause, exec, execFrameEnd, responseWord, performed, hp]
  | resultRead => exact .inr ⟨rfl, rfl⟩
  | vecRead i j =>
    by_cases hi : 5 ≤ i.toNat <;> simp [refusalCause, exec, execVecRead, responseWord, performed, Config.nVectors, hi]
  | statusRead => exact .inr ⟨rfl, rfl⟩
  | clearErr => exact .inr ⟨rfl, rfl⟩
  | reserved x => exact .inl ⟨.illegal, rfl, rfl⟩

/-- A performed command leaves the port and the responses to `respond`. -/
theorem performed_port (i : Instr) (s : State) :
    (performed i s).port = s.port ∧ (performed i s).resps = s.resps := by
  cases i <;> first
    | exact ⟨rfl, rfl⟩
    | exact ⟨(takeChar_frame _ s).2.2.2.2.2.2.1, (takeChar_frame _ s).2.2.2.2.2.2.2⟩
    | simp [performed, closeFrame_eq]

/-- A word that decodes is performed as its command. -/
theorem performWord_ok {w : Word} {i : Instr} (h : decode w = .ok i) (s : State) : performWord w s = exec i s := by
  simp only [performWord, h]

/-- A word that does not decode is refused with ILLEGAL. -/
theorem performWord_illegal {w : Word} {why : IllegalWord} (h : decode w = .illegal why) (s : State) :
    performWord w s = .next (raiseOpError .illegal s) := by
  simp only [performWord, h]

/-- Taking the next event, by what the event is (20_memory.md R58). -/
theorem takeEvent_command {s : State} {w : Word} {rest : List PortEvent} (h : s.port = .command w :: rest) :
    takeEvent s = performWord w (setPort rest s) := by
  simp only [takeEvent, h]

theorem takeEvent_reset {s : State} {rest : List PortEvent} (h : s.port = .reset :: rest) :
    takeEvent s = .next (applyReset (setPort rest s)) := by
  simp only [takeEvent, h]

/-- One step of a run of any machine. -/
theorem core_run_succ (M : Host.Core) (n : Nat) (s t : M.State) (h : M.step s = .next t) :
    M.run (n + 1) s = M.run n t := by
  rw [Host.Core.run, h]

/-- A run of `m + n` steps of any machine is a run of `m` steps and then one of `n`. -/
theorem core_run_add (M : Host.Core) (m n : Nat) (s t : M.State) (h : M.run m s = .next t) :
    M.run (m + n) s = M.run n t := by
  induction m generalizing s with
  | zero => cases h; rw [Nat.zero_add]
  | succ m ih =>
    rw [Nat.succ_add]
    rw [Host.Core.run] at h ⊢
    cases hs : M.step s with
    | next u => rw [hs] at h; exact ih u h
    | fault r => rw [hs] at h; cases h
    | refused r => rw [hs] at h; cases h

/-- A run of no step of any machine. -/
theorem core_run_zero (M : Host.Core) (s : M.State) : M.run 0 s = .next s := by
  rw [Host.Core.run]

/-- A run of no step. -/
@[simp] theorem run_zero (s : State) : run 0 s = .next s := core_run_zero Sys2Proof.core s

/-- One step of a run. -/
theorem run_succ (n : Nat) {s t : State} (h : step s = .next t) : run (n + 1) s = run n t :=
  core_run_succ Sys2Proof.core n s t h

/-- A run of `m + n` steps is a run of `m` steps and then one of `n`. -/
theorem run_add (m n : Nat) {s t : State} (h : run m s = .next t) : run (m + n) s = run n t :=
  core_run_add Sys2Proof.core m n s t h

end Sys2Proof.Machine
end

