-- ==== Sys2Proof/Laws/Encoding.lean ====
section
/-! SUPPORT. The fields of command words and the joining of bytes, as numbers; the words of the encoder; reading a word by its
operation code. -/

namespace Sys2Proof.Machine

/-- `{h, l}` as a number (00_scope.md R7). -/
theorem joinBytes_toNat (h l : Byte) : (joinBytes h l).toNat = h.toNat * 256 + l.toNat := by
  have hl := l.isLt
  have := BitVec.toNat_append h l
  rw [← Nat.shiftLeft_add_eq_or_of_lt hl, Nat.shiftLeft_eq] at this
  exact this

/-- Two hex digits as a number, the first the high one (20_memory.md R53). -/
theorem joinNibbles_toNat (h l : Nibble) : (joinNibbles h l).toNat = h.toNat * 16 + l.toNat := by
  have hl := l.isLt
  have := BitVec.toNat_append h l
  rw [← Nat.shiftLeft_add_eq_or_of_lt hl, Nat.shiftLeft_eq] at this
  exact this

/-- Bits 15:8 as a number. -/
theorem hiByte_toNat (w : Word) : (hiByte w).toNat = w.toNat / 256 := by
  have := w.isLt
  simp [hiByte, BitVec.extractLsb'_toNat, Nat.shiftRight_eq_div_pow]; omega

/-- Bits 7:0 as a number. -/
theorem loByte_toNat (w : Word) : (loByte w).toNat = w.toNat % 256 := by
  simp [loByte, BitVec.extractLsb'_toNat, Nat.shiftRight_eq_div_pow]

/-- A word equals `{h, l}` exactly when its halves are `h` and `l` (41_frame.md R134). -/
theorem eq_joinBytes_iff (w : Word) (h l : Byte) : w = joinBytes h l ↔ hiByte w = h ∧ loByte w = l := by
  simp only [← BitVec.toNat_inj, joinBytes_toNat, hiByte_toNat, loByte_toNat]
  have := l.isLt; omega

/-- `OP` as a number (30_encoding.md R71). -/
theorem opField_toNat (w : Word) : (opField w).toNat = w.toNat / 4096 := by
  have := w.isLt
  simp [opField, BitVec.extractLsb'_toNat, Nat.shiftRight_eq_div_pow]; omega

/-- `SUB` as a number (R71). -/
theorem subField_toNat (w : Word) : (subField w).toNat = w.toNat / 256 % 16 := by
  simp [subField, BitVec.extractLsb'_toNat, Nat.shiftRight_eq_div_pow]

/-- `DATA` as a number (R71). -/
theorem dataField_toNat (w : Word) : (dataField w).toNat = w.toNat % 256 := by
  simp [dataField, BitVec.extractLsb'_toNat, Nat.shiftRight_eq_div_pow]

/-- `w[11:9]` as a number (R74). -/
theorem startReserved_toNat (w : Word) : (startReserved w).toNat = w.toNat / 512 % 8 := by
  simp [startReserved, BitVec.extractLsb'_toNat, Nat.shiftRight_eq_div_pow]

/-- A claim about a word, by its operation code. -/
theorem op_cases (w : Word) {P : Prop} (h : ∀ n < 16, opField w = BitVec.ofNat 4 n → P) : P :=
  h (opField w).toNat (opField w).isLt (by simp)

/-- The word of every command as a number: the patterns of R72 with the operand added. -/
theorem encode_toNat (i : Instr) : (encode i).toNat = match i with
  | .nop => 0 | .crcInit => 0x1000 | .crcByte d => 0x2000 + d.toNat | .crcRead => 0x3000
  | .frameStart m => 0x4000 + m.bit.toNat * 256 | .frameByte d => 0x5000 + d.toNat | .frameChar d => 0x6000 + d.toNat
  | .frameEnd => 0x7000 | .resultRead => 0x8000 | .vecRead i j => 0x9000 + i.toNat * 16 + j.toNat | .statusRead => 0xA000
  | .clearErr => 0xB000 | .reserved x => 0xC000 + x.toNat := by
  have key : ∀ (k : Nat) (a b : Nat), b < 2^k → (a * 2^k) ||| b = a * 2^k + b := by
    intro k a b hb
    rw [← Nat.shiftLeft_eq, Nat.shiftLeft_add_eq_or_of_lt hb]
  cases i with
  | crcByte d => 
    have := d.isLt
    simp [encode, Nat.mod_eq_of_lt (show d.toNat < 65536 by omega)]
    exact key 8 32 _ this
  | frameByte d => 
    have := d.isLt
    simp [encode, Nat.mod_eq_of_lt (show d.toNat < 65536 by omega)]
    exact key 8 0x50 _ this
  | frameChar d => 
    have := d.isLt
    simp [encode, Nat.mod_eq_of_lt (show d.toNat < 65536 by omega)]
    exact key 8 0x60 _ this
  | vecRead i j =>
    have h1 := i.isLt
    have h2 := j.isLt
    simp [encode, Nat.mod_eq_of_lt (show j.toNat < 65536 by omega), Nat.mod_eq_of_lt (show i.toNat < 65536 by omega), Nat.shiftLeft_eq,Nat.mod_eq_of_lt (show i.toNat * 16 < 65536 by omega)]
    have e1 := key 8 0x90 (i.toNat * 16) (by omega)
    have e2 := key 4 (0x900 + i.toNat) j.toNat h2
    norm_num at e1 e2
    rw [e1, show 36864 + i.toNat * 16 = (2304 + i.toNat) * 16 by ring, e2]
  | reserved x => 
    have := x.isLt
    simp [encode, Nat.mod_eq_of_lt (show x.toNat < 65536 by omega)]
    exact key 14 3 _ this
  | frameStart m => cases m <;> rfl
  | _ => rfl

/-- Words are equal when their numbers are. -/
theorem word_ext {a b : Word} (h : a.toNat = b.toNat) : a = b := BitVec.eq_of_toNat_eq h

end Sys2Proof.Machine
end

