-- ==== Sys2Proof/Laws/Frame.lean ====
section
/-! SUPPORT. What the frame registers hold after FRAME_START and after each push (41_frame.md R134), and the codes of the
host's mapping (R151). -/

namespace Sys2Proof.Machine


/-- FRAME_START leaves the registers of an empty frame (R131). -/
theorem open_holds (m : Mode) (s : State) : FrameHolds [] (openFrame m s) := by
  constructor <;> simp

/-- An item of a sequence before the byte appended to it. -/
theorem getD_append_lt (bs : List Byte) (d : Byte) (i : Nat) (h : i < bs.length) : (bs ++ [d]).getD i 0 = bs.getD i 0 := by
  simp [List.getD, List.getElem?_append_left h]

/-- The byte appended to a sequence. -/
theorem getD_append_last (bs : List Byte) (d : Byte)  : (bs ++ [d]).getD bs.length 0 = d := by
  simp [List.getD]

/-- A push appends its byte to what the registers hold (R133, R134). -/
theorem push_holds {bs : List Byte} {s : State} (d : Byte) (h : FrameHolds bs s) : FrameHolds (bs ++ [d]) (push d s) := by
  have hl := h.len
  constructor
  · simp only [push_len, nextLen_toNat, hl, List.length_append, List.length_singleton]; omega
  · simp only [push_fcrc, List.length_append, List.length_singleton, hl]
    by_cases h2 : 2 ≤ bs.length
    · rw [if_pos (by omega), if_pos (by omega), h.h1, if_pos h2]
      have ht : (bs ++ [d]).take (bs.length + 1 - 2) = bs.take (bs.length - 2) ++ [bs.getD (bs.length - 2) 0] := by
        rw [List.take_append_of_le_length (by omega), show bs.length + 1 - 2 = (bs.length - 2) + 1 by omega, List.take_add_one]
        simp [List.getD, List.getElem?_eq_getElem (show bs.length - 2 < bs.length by omega)]
      rw [ht]
      simp only [crc, List.foldl_append, List.foldl_cons, List.foldl_nil]
      rw [h.fcrc]
      split
      · rfl
      · have : bs.length - 2 = 0 := by omega
        simp [this, Config.crcInit]
    · rw [if_neg (by omega), if_neg (by omega), h.fcrc, if_neg (by omega)]
  · simp
  · simp only [push_h1, List.length_append, List.length_singleton, h.h0]
    by_cases h1 : 1 ≤ bs.length
    · rw [if_pos h1, if_pos (by omega), getD_append_lt _ _ _ (by omega)]; congr 1
    · rw [if_neg h1, if_neg (by omega)]
  · simp only [push_hdrOk, List.length_append, List.length_singleton, hl]
    by_cases h5 : bs.length ≤ 5
    · have hm : min bs.length 15 = bs.length := by omega
      rw [hm, if_pos h5, Bool.and_eq_true, h.hdrOk, beq_iff_eq]
      constructor
      · rintro ⟨ha, hb⟩ i hi
        by_cases hi' : i = bs.length
        · subst hi'; rw [getD_append_last]; exact hb
        · rw [getD_append_lt _ _ _ (by omega)]; exact ha i (by omega)
      · intro ha
        constructor
        · intro i hi
          have := ha i (by omega)
          rwa [getD_append_lt _ _ _ (by omega)] at this
        · have := ha bs.length (by omega)
          rwa [getD_append_last] at this
    · rw [if_neg (by omega), h.hdrOk]
      constructor <;> intro ha i hi <;> have := ha i (by omega) <;> rwa [getD_append_lt _ _ _ (by omega)] at *
  all_goals
    simp only [push_t6, push_t7, push_t8, List.length_append, List.length_singleton, hl, h.t6, h.t7, h.t8]
  · by_cases hh : bs.length = 6
    · rw [if_pos (by omega), if_pos (by omega), ← hh, getD_append_last]
    · rw [if_neg (by omega)]
      by_cases h7 : 7 ≤ bs.length
      · rw [if_pos h7, if_pos (by omega), getD_append_lt _ _ _ (by omega)]
      · rw [if_neg h7, if_neg (by omega)]
  · by_cases hh : bs.length = 7
    · rw [if_pos (by omega), if_pos (by omega), ← hh, getD_append_last]
    · rw [if_neg (by omega)]
      by_cases h7 : 8 ≤ bs.length
      · rw [if_pos h7, if_pos (by omega), getD_append_lt _ _ _ (by omega)]
      · rw [if_neg h7, if_neg (by omega)]
  · by_cases hh : bs.length = 8
    · rw [if_pos (by omega), if_pos (by omega)]; exact (hh ▸ (getD_append_last bs d)).symm
    · rw [if_neg (by omega)]
      by_cases h7 : 9 ≤ bs.length
      · rw [if_pos h7, if_pos (by omega), getD_append_lt _ _ _ (by omega)]
      · rw [if_neg h7, if_neg (by omega)]

/-- The comparison of R146 is `verifyChecksum` of the bytes the registers hold (R134). -/
theorem verify_holds {bs : List Byte} {s : State} (h : FrameHolds bs s) : frameVerify s = verifyChecksum bs := by
  have hl := h.len
  have e1 : frameVerify s = (decide (3 ≤ s.len.toNat) && s.fcrc == joinBytes s.h1 s.h0) := rfl
  have e2 : verifyChecksum bs = if bs.length < 3 then false else
      ((computeChecksum (bs.take (bs.length - 2))).1 == bs.getD (bs.length - 2) 0 &&
        (computeChecksum (bs.take (bs.length - 2))).2 == bs.getD (bs.length - 1) 0) := rfl
  rw [e1, e2, hl]
  by_cases h3 : bs.length < 3
  · rw [if_pos h3]; simp; omega
  · rw [if_neg h3]
    rw [Bool.eq_iff_iff]
    simp only [Bool.and_eq_true, beq_iff_eq, decide_eq_true_eq, eq_joinBytes_iff, computeChecksum, h.fcrc, h.h1, h.h0]
    rw [if_pos (by omega), if_pos (by omega), if_pos (by omega)]
    constructor
    · rintro ⟨_, a, b⟩; exact ⟨a, b⟩
    · rintro ⟨a, b⟩; exact ⟨by omega, a, b⟩

/-- `hdr` of R146 says that bytes 0 to 5 are HEADER. -/
theorem header_holds {bs : List Byte} {s : State} (h : FrameHolds bs s) : frameHeader s = true ↔ bs.take 6 = Config.header := by
  unfold frameHeader
  rw [Bool.and_eq_true, h.hdrOk, decide_eq_true_eq, h.len]
  constructor
  · rintro ⟨a, b⟩
    apply List.ext_getElem?
    intro i
    by_cases hi : i < 6
    · have := a i (by omega)
      rw [List.getElem?_take_of_lt hi]
      have hb : i < bs.length := by omega
      have hh : i < Config.header.length := by simpa [Config.header] using hi
      simp only [List.getD, List.getElem?_eq_getElem hb, List.getElem?_eq_getElem hh, Option.getD_some] at this
      rw [List.getElem?_eq_getElem hb, List.getElem?_eq_getElem hh, this]
    · rw [List.getElem?_eq_none (by simp; omega), List.getElem?_eq_none (by simp [Config.header]; omega)]
  · intro e
    have hl : 6 ≤ bs.length := by
      have := congrArg List.length e
      simp [Config.header] at this; omega
    refine ⟨fun i hi => ?_, by omega⟩
    have := congrArg (fun l => l.getD i 0) e
    simp only [List.getD] at this ⊢
    rwa [List.getElem?_take_of_lt (by omega)] at this

/-- An open TEXT frame whose characters so far were the digits `ds`: the decoded bytes are in the frame registers, and an odd
last digit waits in `NIB` (R137). -/
structure TextHolds (ds : List Nibble) (s : State) : Prop where
  noErr : s.decErr = .none
  frame : FrameHolds (pairDigits ds) s
  even : ds.length % 2 = 0 → s.nibPend = false
  odd : ds.length % 2 = 1 → s.nibPend = true ∧ ds.getLast? = some s.nib


/-- One digit after an even number of them completes no byte. -/
theorem pair_even : ∀ (ds : List Nibble) (d : Nibble), ds.length % 2 = 0 → pairDigits (ds ++ [d]) = pairDigits ds
  | [], _, _ => rfl
  | [_], _, h => by simp at h
  | a :: b :: ds, d, h => by
    simp only [List.cons_append, pairDigits]; rw [pair_even ds d (by simp at h; omega)]

/-- One digit after an odd number of them completes a byte with the last. -/
theorem pair_odd : ∀ (ds : List Nibble) (l d : Nibble), ds.length % 2 = 1 → ds.getLast? = some l → pairDigits (ds ++ [d]) = pairDigits ds ++ [joinNibbles l d]
  | [], _, _, h, _ => by simp at h
  | [a], l, d, _, h => by simp at h; simp [pairDigits, h]
  | a :: b :: ds, l, d, h, hl => by
    have h' : ds.length % 2 = 1 := by simp at h; omega
    have : ds ≠ [] := by rintro rfl; simp at h'
    simp only [List.cons_append, pairDigits]; obtain ⟨x, xs, rfl⟩ := List.exists_cons_of_ne_nil this; rw [pair_odd (x :: xs) l d h' (by simpa only [List.getLast?_cons_cons] using hl)]

/-- What the frame registers hold depends on those registers only. -/
theorem frameHolds_congr {bs : List Byte} {s t : State} (h : FrameHolds bs s) (hl : t.len = s.len) (hf : t.fcrc = s.fcrc) (h1 : t.h1 = s.h1) (h0 : t.h0 = s.h0)
    (hh : t.hdrOk = s.hdrOk) (h6 : t.t6 = s.t6) (h7 : t.t7 = s.t7) (h8 : t.t8 = s.t8) : FrameHolds bs t := by
  obtain ⟨a,b,c,d,e,f,g,i⟩ := h
  exact ⟨hl ▸ a, hf ▸ b, h0 ▸ c, h1 ▸ d, hh ▸ e, h6 ▸ f, h7 ▸ g, h8 ▸ i⟩

/-- A digit character appends its digit (R137). -/
theorem text_digit {ds : List Nibble} {s : State} {c : Byte} {v : Nibble} (h : TextHolds ds s) (hc : c ≠ spaceCode) (hv : hexval c = some v) : TextHolds (ds ++ [v]) (takeChar c s) := by
  by_cases hp : ds.length % 2 = 0
  · have hn := h.even hp
    have e : takeChar c s = {s with nib := v, nibPend := true} := by simp [takeChar, h.noErr, hc, hv, takeDigit, hn]
    rw [e]
    exact ⟨h.noErr, by rw [pair_even _ _ hp]; exact frameHolds_congr h.frame rfl rfl rfl rfl rfl rfl rfl rfl, by simp; omega, by simp⟩
  · have hn := h.odd (by omega)
    have e : takeChar c s = {push (joinNibbles s.nib v) s with nib := 0, nibPend := false} := by simp [takeChar, h.noErr, hc, hv, takeDigit, hn.1]
    rw [e]
    refine ⟨h.noErr, ?_, by simp, by simp; omega⟩
    rw [pair_odd _ _ _ (by omega) hn.2]
    exact frameHolds_congr (push_holds _ h.frame) rfl rfl rfl rfl rfl rfl rfl rfl

/-- Once NON_HEX is recorded it stays (R142). -/
theorem nonhex_stays (cs : List Byte) : ∀ s : State, s.decErr = .nonHex → (cs.foldl (fun u c => takeChar c u) s).decErr = .nonHex := by
  induction cs with
  | nil => intro s h; exact h
  | cons c cs ih => intro s h; exact ih _ (by simp [takeChar, h])

/-- What a sequence of characters does to an open TEXT frame (R139). -/
theorem text_fold (cs : List Byte) : ∀ (ds : List Nibble) (s : State), TextHolds ds s →
   ((∃ c ∈ cs.filter (fun c => c ≠ 0x20#8), hexval c = none) → (cs.foldl (fun u c => takeChar c u) s).decErr = .nonHex) ∧
   ((∀ c ∈ cs.filter (fun c => c ≠ 0x20#8), hexval c ≠ none) → TextHolds (ds ++ (cs.filter (fun c => c ≠ 0x20#8)).filterMap hexval) (cs.foldl (fun u c => takeChar c u) s)) := by
  induction cs with
  | nil => intro ds s h; simp [h]
  | cons c cs ih =>
    intro ds s h
    by_cases hc : c = 0x20#8
    · subst hc
      have : takeChar 0x20#8 s = s := by simp [takeChar, spaceCode]
      simpa [this] using ih ds s h
    · cases hv : hexval c with
      | none =>
        have e : takeChar c s = {s with decErr := .nonHex} := by simp [takeChar, h.noErr, spaceCode, hc, hv]
        constructor
        · intro _; simp only [List.foldl_cons]; exact nonhex_stays _ _ (by rw [e])
        · intro ha; exact absurd hv (ha c (by simp [hc]))
      | some v =>
        have := ih _ _ (text_digit h (by simpa [spaceCode] using hc) hv)
        constructor
        · rintro ⟨a, ha, hb⟩
          refine this.1 ⟨a, ?_, hb⟩
          simp [hc] at ha
          rcases ha with rfl | ha
          · simp [hv] at hb
          · simpa using ha
        · intro ha
          have := this.2 (fun a hm => ha a (by simp [hc] ; right; simpa using hm))
          simpa [hc, hv] using this

/-- A TEXT frame just opened holds no digit. -/
theorem text_open (s : State) : TextHolds [] (openFrame .text s) := ⟨rfl, open_holds _ _, by simp, by simp⟩

/-- Uppercasing and then reading a digit is reading a digit of either case (R138). -/
theorem upperHexDigit_upperCase : ∀ c : Byte, upperHexDigit (upperCase c) = hexval c := by decide +kernel

/-- The code of a command names it (42_matcher.md R171). -/
theorem commandOfCode_code (k : CommandType) : commandOfCode k.code.toNat = some k := by cases k <;> rfl

end Sys2Proof.Machine
end

