-- ==== Sys2Proof/Laws/PerInstr.lean ====
section
/-! SUPPORT. Statements made once per command. Family `RowOfWord`: the word of a command matches its row of the opcode map
(30_encoding.md R72) and no row of another operation code. -/

namespace Sys2Proof.Laws.RowOfWord

open Sys2Proof

/-- The number of the row of R72 a command belongs to, in the table's order. -/
def rowIndex : Instr → Nat
  | .nop => 0
  | .crcInit => 1
  | .crcByte _ => 2
  | .crcRead => 3
  | .frameStart _ => 4
  | .frameByte _ => 5
  | .frameChar _ => 6
  | .frameEnd => 7
  | .resultRead => 8
  | .vecRead _ _ => 9
  | .statusRead => 10
  | .clearErr => 11
  | .reserved _ => 12

/-- The word of the command matches its own row of R72. -/
def Statement (i : Instr) : Prop :=
  ∃ r, opcodeRows[rowIndex i]? = some r ∧ rowMatches r (encode i) = true

theorem nop : Statement .nop := ⟨_, rfl, by decide⟩

theorem crcInit : Statement .crcInit := ⟨_, rfl, by decide⟩

theorem crcByte (d : Byte) : Statement (.crcByte d) := ⟨_, rfl, by revert d; decide +kernel⟩

theorem crcRead : Statement .crcRead := ⟨_, rfl, by decide⟩

theorem frameStart (m : Mode) : Statement (.frameStart m) := ⟨_, rfl, by cases m <;> decide⟩

theorem frameByte (d : Byte) : Statement (.frameByte d) := ⟨_, rfl, by revert d; decide +kernel⟩

theorem frameChar (c : Byte) : Statement (.frameChar c) := ⟨_, rfl, by revert c; decide +kernel⟩

theorem frameEnd : Statement .frameEnd := ⟨_, rfl, by decide⟩

theorem resultRead : Statement .resultRead := ⟨_, rfl, by decide⟩

theorem vecRead (i j : Nibble) : Statement (.vecRead i j) := ⟨_, rfl, by revert i j; decide +kernel⟩

theorem statusRead : Statement .statusRead := ⟨_, rfl, by decide⟩

theorem clearErr : Statement .clearErr := ⟨_, rfl, by decide⟩

theorem reserved (x : BitVec 14) : Statement (.reserved x) := by
  refine ⟨_, rfl, ?_⟩
  have h : encode (.reserved x) &&& 0xC000#16 = 0xC000#16 := by
    apply BitVec.eq_of_getLsbD_eq
    intro k hk
    interval_cases k <;> simp [encode]
  simpa [rowMatches] using h

end Sys2Proof.Laws.RowOfWord
end

