-- ==== Sys2Proof/Tests/Slice0.lean ====
section
/-! SUPPORT. Tests on fixed values, each about one step or one operation, with expected values from the spec's tables
(95_test_vectors.md and the examples of the rules), and for every obligation with hypotheses a witness that meets them. -/

namespace Sys2Proof.Machine.Tests

/-- The state after a step, if there is one. -/
def nextOf (o : Host.Outcome State Fault Refusal) : Option State :=
  match o with
  | .next t => some t
  | _ => none

/-- One command performed. -/
def one (i : Instr) (s : State) : Option State := nextOf (exec i s)

/-- The last response of an outcome. -/
def lastResp (o : Option State) : Option Word := o.bind (fun t => t.resps.getLast?)

/-- A frame just opened after reset. -/
def opened (m : Mode) : State := openFrame m State.reset

/-- A BYTE frame with some bytes delivered. -/
def framed (bs : List Byte) : State := bs.foldl (fun u d => push d u) (opened .byte)

/-- A BYTE frame whose registers hold `n` bytes: the CRC of all but the last two, those two as a word, whether the header
matched, and the triple. -/
def collected (n : Nibble) (fcrc last : Word) (hdr : Bool) (t6 t7 t8 : Byte) : State :=
  { opened .byte with len := n, fcrc := fcrc, h1 := hiByte last, h0 := loByte last, hdrOk := hdr, t6 := t6, t7 := t7, t8 := t8 }

/-- The reset state with events at the port. -/
def withPort (p : List PortEvent) : State := setPort p State.reset

/-- The port of a state set by `withPort`. -/
theorem withPort_port (p : List PortEvent) : (withPort p).port = p := rfl

/-- Bytes 0 to 11 of the AllRise frame (95_test_vectors.md S3). -/
def allRise12 : List Byte := [0x5A, 0x02, 0x7E, 0x00, 0x04, 0x08, 0xF1, 0x03, 0x02, 0x01, 0x80, 0xA5]

/-! ### Decoding: words written out from the patterns of 30_encoding.md R72 -/

theorem test_decode_nop : decode 0b0000000000000000#16 = .ok .nop := by decide
theorem test_decode_crcInit : decode 0b0001000000000000#16 = .ok .crcInit := by decide
theorem test_decode_crcByte : decode 0b0010000010000001#16 = .ok (.crcByte 0x81) := by decide
theorem test_decode_crcRead : decode 0b0011000000000000#16 = .ok .crcRead := by decide
theorem test_decode_frameStart_byte : decode 0b0100000000000000#16 = .ok (.frameStart .byte) := by decide
theorem test_decode_frameStart_text : decode 0b0100000100000000#16 = .ok (.frameStart .text) := by decide
theorem test_decode_frameByte : decode 0b0101000001011010#16 = .ok (.frameByte 0x5A) := by decide
theorem test_decode_frameChar : decode 0b0110000001000111#16 = .ok (.frameChar 0x47) := by decide
theorem test_decode_frameEnd : decode 0b0111000000000000#16 = .ok .frameEnd := by decide
theorem test_decode_resultRead : decode 0b1000000000000000#16 = .ok .resultRead := by decide
theorem test_decode_vecRead : decode 0b1001000000011110#16 = .ok (.vecRead 1 14) := by decide
theorem test_decode_statusRead : decode 0b1010000000000000#16 = .ok .statusRead := by decide
theorem test_decode_clearErr : decode 0b1011000000000000#16 = .ok .clearErr := by decide
theorem test_decode_reserved : decode 0b1101000000000001#16 = .ok (.reserved 0x1001) := by decide
theorem test_decode_illegal : [0x0001#16, 0x0100#16, 0x2100#16, 0x4001#16, 0x4300#16, 0x9105#16, 0xB001#16].map legalWord =
    [false, false, false, false, false, false, false] := by decide
theorem test_decodeTableWord : decodeTableWord 16 0x9036 = some (.vecRead 3 6) ∧ decodeTableWord 16 0x0001 = none := by decide
theorem test_withFetchWord :
    (nextOf (step (State.reset.withFetchWord 16 0x205A))).map (fun t => t.acc) = some 0x7B3F#16 := by decide

/-! ### Well-formedness: an ill-formed term for every check -/

theorem test_wf_reserved_refused : (Instr.reserved 0).legal = false := by decide
theorem test_wf_bytes_refused : [AsmLine.crcByte 256, .frameByte 256, .frameChar 256, .crcCompute [0, 256], .frameBytes [256],
    .verify [256], .classifyBytes [256]].map AsmLine.wf = [false, false, false, false, false, false, false] := by decide
theorem test_wf_indices_refused : [AsmLine.vecRead 16 0, .vecRead 0 16, .vecFrame 16].map AsmLine.wf =
    [false, false, false] := by decide
theorem test_wf_characters_refused : [AsmLine.frameCharQuoted 128, .classify [0x41, 128]].map AsmLine.wf =
    [false, false] := by decide
theorem test_wf_accepted : [AsmLine.nop, .crcInit, .crcByte 255, .crcRead, .frameStart .text, .frameByte 255, .frameChar 255,
    .frameCharQuoted 127, .frameEnd, .resultRead, .vecRead 15 15, .statusRead, .errClear, .crcCompute [], .vecFrame 15].all
    AsmLine.wf = true := by decide

/-! ### The CRC unit (95_test_vectors.md 2.1, 2.2) -/

theorem test_crcStep : [0x00#8, 0x01#8, 0x5A#8, 0x80#8, 0xA5#8, 0xFF#8].map (crcStep 0xFFFF#16) =
    [0x40BF, 0x807E, 0x7B3F, 0xE0BE, 0x3B7F, 0x00FF] := by decide
theorem test_crc_check_value : crc [0x31, 0x32, 0x33, 0x34, 0x35, 0x36, 0x37, 0x38, 0x39] = 0x4B37#16 := by decide +kernel
theorem test_computeChecksum : computeChecksum allRise12 = (0x6D, 0xFC) := by decide +kernel
theorem test_verifyChecksum : [[], [0x00], [0xFF, 0xFF], [0x00, 0x40, 0xBF], [0x00, 0xBF, 0x40]].map verifyChecksum =
    [false, false, false, true, false] := by decide
theorem test_crcInit : (one .crcInit { State.reset with acc := 0x6DFC#16 }).map (fun t => t.acc) = some 0xFFFF#16 := by decide
theorem test_crcByte : (one (.crcByte 0x02) { State.reset with acc := 0x7B3F#16 }).map (fun t => t.acc) = some 0xD1BA#16 := by
  decide
theorem test_crcRead : lastResp (one .crcRead { State.reset with acc := 0x6DFC#16 }) = some 0x6DFC#16 := by decide

/-! ### The frame unit (95_test_vectors.md 2.4, 2.5, 2.8; 41_frame.md) -/

theorem test_frameStart : (one (.frameStart .text) (framed allRise12)).map (fun t => (statusWord t, t.acc)) =
    some (0x4005#16, 0xFFFF#16) := by decide
theorem test_frameByte_saturates :
    (one (.frameByte 0x77) { opened .byte with len := 15, h1 := 0x01, h0 := 0x02 }).map (fun t => (t.len, t.h1, t.h0, t.fcrc)) =
    some (15, 0x02, 0x77, 0x807E#16) := by decide
theorem test_frameByte_in_text : (one (.frameByte 0x5A) (opened .text)).map (fun t => (t.errCause, t.len)) = some (.mode, 0) := by
  decide
theorem test_frameChar_completes_a_byte :
    (one (.frameChar 0x61) (takeChar 0x35 (opened .text))).map (fun t => (t.len, t.h0, t.nibPend, t.nib)) =
    some (1, 0x5A, false, 0) := by decide
theorem test_frameChar_tab : (one (.frameChar 0x09) (opened .text)).map (fun t => t.decErr) = some .nonHex := by decide
theorem test_frameEnd_allRise :
    (one .frameEnd (collected 14 0x6DFC 0x6DFC true 0xF1 0x03 0x02)).map (fun t => t.res.word) = some 0x049C#16 := by decide
theorem test_frameEnd_odd : (one .frameEnd (takeChar 0x35 (opened .text))).map (fun t => (t.res.word, t.nibPend)) =
    some (0x0201#16, true) := by decide
theorem test_frameResult_table :
    [collected 14 0x6DFC 0x0000 true 0xF1 0x03 0x02, collected 5 0x40BF 0x0004 true 0 0 0,
     collected 6 0x93D0 0x0408 true 0 0 0, collected 3 0x40BF 0x40BF false 0 0 0,
     collected 13 0xBC36 0xBC36 true 0xF1 0x03 0x02, collected 14 0xAE01 0xAE01 false 0xF1 0x03 0x02,
     collected 14 0x89B2 0x89B2 true 0xD1 0x03 0x01].map (fun s => (frameResult s).word) =
    [0x0403, 0x0002, 0x0402, 0x0082, 0x0482, 0x008D, 0x048D] := by decide
theorem test_resultRead : lastResp (one .resultRead (closeFrame (opened .byte))) = some 0x0002#16 := by decide

/-! ### The vector ROM (95_test_vectors.md 2.7) -/

theorem test_vecRead : [(0, 0), (3, 6), (0, 13), (4, 14), (2, 15)].map
    (fun (p : Nibble × Nibble) => lastResp (one (.vecRead p.1 p.2) State.reset)) =
    [some 0x005A, some 0x00D1, some 0x00FC, some 0x0005, some 0x000E] := by decide
theorem test_vecRead_range : (one (.vecRead 5 0) State.reset).map statusWord = some 0x4048#16 := by decide

/-! ### The control commands (43_control.md; 95_test_vectors.md 2.8) -/

theorem test_nop : one .nop State.reset = some { State.reset with resps := [0#16] } := by decide
theorem test_statusRead : lastResp (one .statusRead State.reset) = some 0x4000#16 := by decide
theorem test_clearErr : (one .clearErr (refusedWith .sequence State.reset)).map statusWord = some 0x4000#16 := by decide
theorem test_reserved : (one (.reserved 0) State.reset).map statusWord = some 0x4018#16 := by decide
theorem test_first_cause_kept : (one (.vecRead 5 0) (refusedWith .sequence State.reset)).map statusWord = some 0x4028#16 := by
  decide
theorem test_reset_event : nextOf (step (setPort [.reset] (framed allRise12))) = some State.reset := by decide

/-! ### Witnesses of the hypotheses -/

theorem witness_DecodedWordIsTheEncoding :
    decode 0x205A#16 = .ok (.crcByte 0x5A) ∧ decode 0xFFFF#16 = .ok (.reserved 0x3FFF) := by decide

theorem witness_LegalWordsAreTheRowsOfTheMap :
    legalWord 0xC000#16 = false ∧ 0xC ≤ (opField 0xC000#16).toNat ∧ legalWord 0xB000#16 = true ∧
    legalWord 0x0100#16 = false ∧ opField 0x0100#16 ≠ 4 ∧ subField 0x0100#16 ≠ 0 ∧
    legalWord 0x4200#16 = false ∧ opField 0x4200#16 = 4 ∧ startReserved 0x4200#16 ≠ 0 ∧ legalWord 0x4100#16 = true ∧
    legalWord 0x4001#16 = false ∧ dataField 0x4001#16 ≠ 0 ∧
    (withPort [.command 0xC000#16]).port = .command 0xC000#16 :: [] := by decide

theorem witness_StepPerformsTheDecodedCommand :
    (withPort [.command 0x205A#16, .reset]).port = .command 0x205A#16 :: [.reset] ∧
    decode 0x205A#16 = .ok (.crcByte 0x5A) := by decide

theorem witness_EveryWordIsPerformedInEveryState :
    (withPort [.command 0x0001#16]).port = .command 0x0001#16 :: [] := by decide

theorem witness_EveryCommandReturnsItsResponseWord :
    (withPort [.command 0x3000#16]).port = .command 0x3000#16 :: [] ∧
    (decode 0x3000#16 = .ok .crcRead ∧ refusalCause .crcRead (withPort [.command 0x3000#16]) = none) ∧
    (withPort [.command 0x505A#16]).port = .command 0x505A#16 :: [] ∧
    (decode 0x505A#16 = .ok (.frameByte 0x5A) ∧
      refusalCause (.frameByte 0x5A) (withPort [.command 0x505A#16]) = some .sequence) ∧
    (withPort [.command 0x0001#16]).port = .command 0x0001#16 :: [] ∧ decode 0x0001#16 = .illegal .nonzeroData := by decide

theorem witness_RefusalChangesOnlyTheErrorRecord :
    refusalCause (.vecRead 5 0) State.reset = some .vecRange ∧ refusalCause (.vecRead 4 0) State.reset = none ∧
    refusalCause .frameEnd State.reset = some .sequence ∧ refusalCause (.frameChar 0x41) (opened .byte) = some .mode ∧
    refusalCause (.reserved 0) State.reset = some .illegal ∧
    (refusalCause .nop State.reset = none ∧ Instr.nop ≠ .clearErr) := by decide

theorem witness_FirstCauseIsKept :
    let s := setPort [.command 0x9050#16] (refusedWith .sequence State.reset)
    (∃ t, step s = .next t) ∧ s.opErr = true ∧
      (∀ w, s.port.head? = some (.command w) → decode w ≠ .ok .clearErr) ∧ s.port.head? ≠ some .reset := by
  refine ⟨⟨_, rfl⟩, rfl, fun w h => ?_, by decide⟩
  obtain rfl : (0x9050#16 : Word) = w := by simpa [setPort] using h
  decide

theorem witness_ReservedWordsAreRefused :
    0xC ≤ (opField 0xC000#16).toNat ∧ 0xC ≤ (opField 0xFFFF#16).toNat ∧ legalWord 0x0001#16 = false ∧
    (withPort [.command 0x0001#16]).port = .command 0x0001#16 :: [] := by decide

theorem witness_ResetEventRestoresEveryRegister :
    (setPort [.reset, .command 0#16] (framed allRise12)).port = .reset :: [.command 0#16] := by decide

theorem witness_NothingHappensWithoutAnEvent : (framed allRise12).port = [] := by decide

theorem witness_IllegalExactlyWhen_plain :
    (opField 0x0001#16 = 0x0 ∧ plainBad 0x0001#16 ∧ opField 0x0000#16 = 0x0 ∧ ¬ plainBad 0x0000#16) ∧
    (opField 0x1100#16 = 0x1 ∧ plainBad 0x1100#16 ∧ opField 0x1000#16 = 0x1 ∧ ¬ plainBad 0x1000#16) ∧
    (opField 0x3080#16 = 0x3 ∧ plainBad 0x3080#16 ∧ opField 0x3000#16 = 0x3 ∧ ¬ plainBad 0x3000#16) ∧
    (opField 0x7800#16 = 0x7 ∧ plainBad 0x7800#16 ∧ opField 0x7000#16 = 0x7 ∧ ¬ plainBad 0x7000#16) ∧
    (opField 0x8001#16 = 0x8 ∧ plainBad 0x8001#16 ∧ opField 0x8000#16 = 0x8 ∧ ¬ plainBad 0x8000#16) ∧
    (opField 0xA001#16 = 0xA ∧ plainBad 0xA001#16 ∧ opField 0xA000#16 = 0xA ∧ ¬ plainBad 0xA000#16) ∧
    (opField 0xBFFF#16 = 0xB ∧ plainBad 0xBFFF#16 ∧ opField 0xB000#16 = 0xB ∧ ¬ plainBad 0xB000#16) ∧
    (withPort [.command 0x0001#16]).port = .command 0x0001#16 :: [] := by
  unfold plainBad; decide

theorem witness_IllegalExactlyWhen_data :
    (opField 0x2100#16 = 0x2 ∧ dataBad 0x2100#16 ∧ opField 0x20FF#16 = 0x2 ∧ ¬ dataBad 0x20FF#16) ∧
    (opField 0x5800#16 = 0x5 ∧ dataBad 0x5800#16 ∧ opField 0x50FF#16 = 0x5 ∧ ¬ dataBad 0x50FF#16) ∧
    (opField 0x6F00#16 = 0x6 ∧ dataBad 0x6F00#16 ∧ opField 0x60FF#16 = 0x6 ∧ ¬ dataBad 0x60FF#16) ∧
    (opField 0x9100#16 = 0x9 ∧ dataBad 0x9100#16 ∧ opField 0x90FF#16 = 0x9 ∧ ¬ dataBad 0x90FF#16) ∧
    (withPort [.command 0x2100#16]).port = .command 0x2100#16 :: [] := by
  unfold dataBad; decide

theorem witness_IllegalExactlyWhen_start :
    (opField 0x4200#16 = 0x4 ∧ startBad 0x4200#16 ∧ opField 0x4101#16 = 0x4 ∧ startBad 0x4101#16 ∧
      opField 0x4100#16 = 0x4 ∧ ¬ startBad 0x4100#16) ∧
    (withPort [.command 0x4200#16]).port = .command 0x4200#16 :: [] := by
  unfold startBad; decide

theorem witness_ChecksumRoundTrip : 1 ≤ [0x00#8].length ∧ [0xFF#8, 0xFF#8].length < 3 := by decide

theorem witness_CrcCommandsComputeTheChecksum :
    (∀ w ∈ [0x205A#16, 0x4100#16, 0x0001#16, 0x2002#16], decode w ≠ .ok .crcInit) ∧
    ∃ (s : State) (rest : List PortEvent), s.port =
      commands (encode .crcInit :: ([0x205A#16, 0x4100#16, 0x0001#16, 0x2002#16] ++ [encode .crcRead])) ++ rest :=
  ⟨by intro w hw; fin_cases hw <;> decide, _, [.reset], withPort_port _⟩

theorem witness_BytePushMovesTheDelayLine :
    (framed [0x5A]).len.toNat = 1 ∧ (framed (allRise12.take 2)).len.toNat = 2 ∧ (framed (allRise12.take 5)).len.toNat = 5 ∧
    (framed (allRise12.take 6)).len.toNat = 6 ∧ (framed (allRise12.take 7)).len.toNat = 7 ∧
    (framed (allRise12.take 8)).len.toNat = 8 ∧ (framed (allRise12 ++ allRise12)).len.toNat = 15 := by decide

theorem witness_FrameByteDeliversOneByte :
    State.reset.phase ≠ .collect ∧ ((opened .text).phase = .collect ∧ (opened .text).mode = .text) ∧
    ((opened .byte).phase = .collect ∧ (opened .byte).mode = .byte) ∧ (framed (allRise12 ++ allRise12)).len = 15 := by decide

theorem witness_CharacterClasses :
    (0x30 ≤ (0x30#8).toNat ∧ (0x39#8).toNat ≤ 0x39) ∧ (0x41 ≤ (0x41#8).toNat ∧ (0x46#8).toNat ≤ 0x46) ∧
    (0x61 ≤ (0x61#8).toNat ∧ (0x66#8).toNat ≤ 0x66) ∧
    [0x2F#8, 0x30#8, 0x39#8, 0x3A#8, 0x40#8, 0x41#8, 0x46#8, 0x47#8, 0x60#8, 0x61#8, 0x66#8, 0x67#8].map hexval =
      [none, some 0, some 9, none, none, some 0xA, some 0xF, none, none, some 0xA, some 0xF, none] := by decide

theorem witness_FrameCharDecodesOneCharacter :
    State.reset.phase ≠ .collect ∧ ((opened .byte).phase = .collect ∧ (opened .byte).mode = .byte) ∧
    ((opened .text).phase = .collect ∧ (opened .text).mode = .text) ∧
    (let s := takeChar 0x47 (opened .text)
     s.phase = .collect ∧ s.mode = .text ∧ s.decErr ≠ .none) ∧
    ((opened .text).decErr = .none ∧ hexval 0x46#8 = some 0xF ∧ (opened .text).nibPend = false) ∧
    (let s := takeChar 0x35 (opened .text)
     s.phase = .collect ∧ s.mode = .text ∧ s.decErr = .none ∧ hexval 0x61#8 = some 0xA ∧ s.nibPend = true) ∧
    (0x47#8 ≠ 0x20#8 ∧ hexval 0x47#8 = none) := by decide

theorem witness_TextDecodesAsAWhole :
    (∀ w ∈ [0x6035#16, 0x6020#16, 0x505A#16, 0x6061#16],
      decode w ≠ .ok .frameEnd ∧ ∀ m, decode w ≠ .ok (.frameStart m)) ∧
    charOperands [0x6035#16, 0x6020#16, 0x505A#16, 0x6061#16] = [0x35#8, 0x20#8, 0x61#8] ∧
    (∀ c ∈ [0x35#8, 0x20#8, 0x61#8].filter (fun c => c ≠ 0x20#8), hexval c ≠ none) ∧
    ([0x35#8, 0x20#8, 0x61#8].filter (fun c => c ≠ 0x20#8)).length % 2 = 0 ∧
    (∃ c ∈ [0x35#8, 0x47#8].filter (fun c => c ≠ 0x20#8), hexval c = none) ∧
    (∀ c ∈ [0x35#8, 0x20#8].filter (fun c => c ≠ 0x20#8), hexval c ≠ none) ∧
    ([0x35#8, 0x20#8].filter (fun c => c ≠ 0x20#8)).length % 2 = 1 ∧
    (∃ (s : State) (rest : List PortEvent), s.port =
      commands (encode (.frameStart .text) :: ([0x6035#16, 0x6020#16, 0x505A#16, 0x6061#16] ++ [encode .frameEnd])) ++ rest) := by
  refine ⟨?_, by decide, by decide, by decide, by decide, by decide, by decide, _, [.reset], withPort_port _⟩
  intro w hw
  fin_cases hw <;> exact ⟨by decide, fun m => by cases m <;> decide⟩

theorem witness_FrameEndClosesTheFrame :
    State.reset.phase ≠ .collect ∧
    (let s := takeChar 0x35 (opened .text)
     s.phase = .collect ∧ s.mode = .text ∧ s.decErr = .none ∧ s.nibPend = true) ∧
    ((opened .byte).phase = .collect ∧ (opened .byte).mode = .byte) ∧
    (let s := takeChar 0x47 (takeChar 0x35 (opened .text))
     s.phase = .collect ∧ s.decErr ≠ .none ∧ s.nibPend = true) ∧
    ((opened .text).phase = .collect ∧ (opened .text).nibPend = false) := by decide

theorem witness_FrameResultFollowsTheSteps :
    (takeChar 0x47 (opened .text)).decErr ≠ .none ∧
    ((collected 13 0xBC36 0xBC36 true 0xF1 0x03 0x02).decErr = .none ∧
      (collected 13 0xBC36 0xBC36 true 0xF1 0x03 0x02).len.toNat < 14) ∧
    (let s := collected 14 0x6DFC 0x0000 true 0xF1 0x03 0x02
     s.decErr = .none ∧ 14 ≤ s.len.toNat ∧ s.fcrc ≠ joinBytes s.h1 s.h0) ∧
    (let s := collected 14 0x6DFC 0x6DFC true 0xF1 0x03 0x02
     s.decErr = .none ∧ 14 ≤ s.len.toNat ∧ s.fcrc = joinBytes s.h1 s.h0 ∧ matchCommand true s.t6 s.t7 s.t8 ≠ .unknown) ∧
    (let s := collected 14 0x89B2 0x89B2 true 0xD1 0x03 0x01
     s.decErr = .none ∧ 14 ≤ s.len.toNat ∧ s.fcrc = joinBytes s.h1 s.h0 ∧
       matchCommand true s.t6 s.t7 s.t8 = .unknown) := by decide

/-- A frame just opened meets the invariant. -/
theorem opened_inv (m : Mode) : Inv (opened m) := by
  cases m <;> constructor <;> decide

theorem witness_ResultReadReturnsTheResult : Inv (opened .byte) ∧ (opened .byte).phase ≠ .done :=
  ⟨opened_inv .byte, by decide⟩

theorem witness_VerifyBitIsVerifyChecksum :
    (FrameHolds [] (opened .byte) ∧ (frameResult (opened .byte)).outcome ≠ .decodeError) ∧
    (∃ (s : State) (rest : List PortEvent), s.port = issued (classifyBytesCmds [0x00, 0x40, 0xBF]) ++ rest) :=
  ⟨⟨open_holds .byte State.reset, by decide⟩, _, [], withPort_port _⟩

theorem witness_ByteFramesClassifyLikeTheSource :
    ∃ (s : State) (rest : List PortEvent), s.port = issued (classifyBytesCmds (allRise12 ++ [0x6D, 0xFC])) ++ rest :=
  ⟨_, [.command 0xA000#16], withPort_port _⟩

theorem witness_TextFramesClassifyLikeTheSource :
    ∃ (s : State) (rest : List PortEvent), s.port = issued (classifyTextCmds [0x35, 0x61, 0x20, 0x47]) ++ rest :=
  ⟨_, [.command 0xA000#16], withPort_port _⟩

theorem witness_ShortTextsFailByParityThenLength :
    (∀ c ∈ [0x35#8, 0x20#8], c = 0x20#8 ∨ hexval c ≠ none) ∧
    ([0x35#8, 0x20#8].filter (fun c => c ≠ 0x20#8)).length % 2 = 1 ∧
    (∀ c ∈ List.replicate 26 0x30#8, c = 0x20#8 ∨ hexval c ≠ none) ∧
    ((List.replicate 26 0x30#8).filter (fun c => c ≠ 0x20#8)).length % 2 = 0 ∧
    ((List.replicate 26 0x30#8).filter (fun c => c ≠ 0x20#8)).length < 28 ∧
    (∃ (s : State) (rest : List PortEvent),
      s.port = issued (.frameStart .text :: ((List.replicate 26 0x30#8).map .frameChar ++ [.frameEnd])) ++ rest) :=
  ⟨by decide, by decide, by decide, by decide, by decide, _, [], withPort_port _⟩

theorem witness_MatchFunctionIsTheTable :
    (0xF1#8, 0x03#8, 0x04#8) ∉ [(0xF1#8, 0x03#8, 0x02#8), (0xF1#8, 0x03#8, 0x01#8), (0xF1#8, 0x03#8, 0x03#8),
      (0xD1#8, 0x03#8, 0x02#8), (0xE1#8, 0x03#8, 0x02#8)] := by decide

theorem witness_EachCommandHasOneTriple : CommandType.allRise ≠ .unknown := by decide

theorem witness_VecReadReturnsOneItem : 5 ≤ (5 : Nibble).toNat ∧ 5 ≤ (15 : Nibble).toNat ∧ (4 : Nibble).toNat < 5 := by decide

theorem witness_VectorRomContents : (0 : Nibble).toNat < 5 ∧ (4 : Nibble).toNat < 5 := by decide

theorem witness_EveryVectorIsRecognized : (4 : Nibble).toNat < 5 ∧
    ∃ (s : State) (rest : List PortEvent), s.port = issued (classifyBytesCmds (vector 4)) ++ rest :=
  ⟨by decide, _, [.reset], withPort_port _⟩

theorem witness_NopChangesNothing : opField 0x0000#16 = 0 ∧ legalWord 0x0000#16 = true := by decide

theorem witness_ClearErrClearsTheErrorRecord : Inv (opened .text) ∧ (opened .text).opErr = false :=
  ⟨opened_inv .text, by decide⟩

theorem witness_OnlyTheNamedCommandsWriteEachRegister :
    ((∃ t, exec .clearErr State.reset = .next t) ∧ writesAcc .clearErr = false ∧ writesFrame .clearErr = false ∧
      (∀ m, Instr.clearErr ≠ .frameStart m) ∧ Instr.clearErr ≠ .frameEnd) ∧
    ((∃ t, exec .frameEnd (takeChar 0x35 (opened .text)) = .next t) ∧ writesBytes .frameEnd = false ∧
      writesNibble .frameEnd = false ∧ refusalCause .frameEnd (takeChar 0x35 (opened .text)) = none ∧
      Instr.frameEnd ≠ .clearErr) ∧
    ((∃ t, exec (.frameByte 0x5A) (opened .byte) = .next t) ∧ writesNibble (.frameByte 0x5A) = false ∧
      Instr.frameByte 0x5A ≠ .frameEnd) ∧
    ((∃ t, exec (.vecRead 5 0) (refusedWith .sequence State.reset) = .next t) ∧ Instr.vecRead 5 0 ≠ .clearErr ∧
      (refusedWith .sequence State.reset).opErr = true) :=
  ⟨⟨⟨_, rfl⟩, by decide, by decide, fun _ => by simp, by decide⟩, ⟨⟨_, rfl⟩, by decide⟩, ⟨⟨_, rfl⟩, by decide⟩,
    ⟨_, rfl⟩, by decide⟩

theorem witness_ReadsChangeNothingAndRepeat :
    isRead .crcRead = true ∧ isRead .resultRead = true ∧ isRead (.vecRead 4 15) = true ∧ isRead .statusRead = true ∧
    isRead (.vecRead 5 0) = false := by decide

theorem witness_EveryStepKeepsTheInvariant : ∃ s t : State, Inv s ∧ s.port ≠ [] ∧ step s = .next t := by
  refine ⟨setPort [.command 0x505A#16] (opened .byte), _, ?_, by decide, rfl⟩
  constructor <;> decide

theorem witness_AssemblerGivesTheWordsOfTheSyntax :
    255 < 256 ∧ 256 ≤ 256 ∧ 15 < 16 ∧ (16 ≤ 16 ∨ 16 ≤ 0) ∧ (16 ≤ 0 ∨ 16 ≤ 16) := by decide

theorem witness_PseudoInstructionsExpand :
    (∀ b ∈ [0, 255], b < 256) ∧ (∀ c ∈ [0x41, 127], c < 128) ∧ (∃ c ∈ [0x41, 128], 0x7F < c) ∧ 15 < 16 := by decide

theorem witness_HostReadsTheResultWord :
    (frameResult (opened .byte)).outcome ≠ .none ∧ (2 ≤ 2 ∧ 2 ≤ 5) ∧ (2 ≤ 5 ∧ 5 ≤ 5) := by decide

end Sys2Proof.Machine.Tests
end

section
/-! PROOFS. What a command and a step can do, as inversion lemmas, and which registers each command writes (10_state.md R22 to
R31). The statements about the registers (family 10_state.md) are settled from these. -/

namespace Sys2Proof.Machine

/-! ### Inversion: what a command, a word and a step lead to -/

/-- A command that answers a next state was refused with its cause, or performed with its response. -/
theorem exec_next_cases {i : Instr} {s t : State} (h : exec i s = .next t) :
    (∃ c, refusalCause i s = some c ∧ t = raiseOpError c s) ∨
    (refusalCause i s = none ∧ t = respond (responseWord i s) (performed i s)) := by
  obtain ⟨c, hc, he⟩ | ⟨hc, he⟩ := exec_cases i s
  · exact .inl ⟨c, hc, Host.Outcome.next.inj (h.symm.trans he)⟩
  · exact .inr ⟨hc, Host.Outcome.next.inj (h.symm.trans he)⟩

/-- Every command answers a next state, and leaves the port alone. -/
theorem exec_answers (i : Instr) (s : State) : ∃ t, exec i s = .next t ∧ t.port = s.port := by
  obtain ⟨c, -, he⟩ | ⟨-, he⟩ := exec_cases i s
  · exact ⟨_, he, rfl⟩
  · exact ⟨_, he, (performed_port i s).1⟩

/-- A performed word is its command, or is illegal and refused with ILLEGAL. -/
theorem performWord_next_cases {w : Word} {s t : State} (h : performWord w s = .next t) :
    (∃ i, decode w = .ok i ∧ exec i s = .next t) ∨
    (∃ why, decode w = .illegal why ∧ t = raiseOpError .illegal s) := by
  cases hd : decode w with
  | ok i => exact .inl ⟨i, rfl, (performWord_ok hd s).symm.trans h⟩
  | illegal why => exact .inr ⟨why, rfl, Host.Outcome.next.inj (h.symm.trans (performWord_illegal hd s))⟩

/-- Every word answers a next state, and leaves the port alone. -/
theorem performWord_answers (w : Word) (s : State) : ∃ t, performWord w s = .next t ∧ t.port = s.port := by
  cases hd : decode w with
  | ok i => rw [performWord_ok hd]; exact exec_answers i s
  | illegal why => exact ⟨_, performWord_illegal hd s, rfl⟩

/-- A step waits, takes a reset, or performs the next word. -/
theorem step_next_cases {s t : State} (h : step s = .next t) :
    (s.port = [] ∧ t = s) ∨
    (∃ rest, s.port = .reset :: rest ∧ t = applyReset (setPort rest s)) ∨
    (∃ w rest, s.port = .command w :: rest ∧ performWord w (setPort rest s) = .next t) := by
  cases hp : s.port with
  | nil => exact .inl ⟨rfl, by simpa [step, takeEvent, hp] using h.symm⟩
  | cons e rest =>
    cases e with
    | reset => exact .inr (.inl ⟨rest, rfl, Host.Outcome.next.inj (h.symm.trans (takeEvent_reset hp))⟩)
    | command w => exact .inr (.inr ⟨w, rest, rfl, (takeEvent_command hp).symm.trans h⟩)

/-! ### The frame unit under the operations that leave it alone -/

@[simp] theorem frameUnit_respond (w : Word) (s : State) : frameUnit (respond w s) = frameUnit s := rfl
@[simp] theorem frameUnit_raiseOpError (c : ErrCause) (s : State) : frameUnit (raiseOpError c s) = frameUnit s := rfl
@[simp] theorem frameUnit_setPort (p : List PortEvent) (s : State) : frameUnit (setPort p s) = frameUnit s := rfl
@[simp] theorem frameUnit_applyReset (s : State) : frameUnit (applyReset s) = frameUnit State.reset := rfl

/-- Blocks with equal frame units differ in `ACC`, the error record and the outside alone. -/
theorem exists_eq_of_frameUnit_eq {s t : State} (h : frameUnit t = frameUnit s) :
    ∃ a o c p q, t = { s with acc := a, opErr := o, errCause := c, port := p, resps := q } := by
  cases s
  cases t
  simp only [frameUnit, FrameUnit.mk.injEq] at h
  obtain ⟨rfl, rfl, rfl, rfl, rfl, rfl, rfl, rfl, rfl, rfl, rfl, rfl, rfl, rfl⟩ := h
  exact ⟨_, _, _, _, _, rfl⟩

/-- A command that writes no frame register leaves the frame unit alone. -/
theorem performed_frameUnit {i : Instr} (h : writesFrame i = false) (s : State) :
    frameUnit (performed i s) = frameUnit s := by
  cases i with
  | frameStart _ | frameByte _ | frameChar _ | frameEnd => cases h
  | _ => rfl

/-! ### Which registers a performed command writes -/

/-- `ACC` (R22). -/
theorem performed_acc {i : Instr} (h : writesAcc i = false) (s : State) : (performed i s).acc = s.acc := by
  cases i with
  | crcInit | crcByte _ => cases h
  | frameChar c => exact (takeChar_frame c s).1
  | frameEnd => simp [performed, closeFrame_eq]
  | _ => rfl

/-- `MODE` (R23). -/
theorem performed_mode {i : Instr} (h : ∀ m, i ≠ .frameStart m) (s : State) : (performed i s).mode = s.mode := by
  cases i with
  | frameStart m => exact absurd rfl (h m)
  | frameChar c => exact (takeChar_frame c s).2.1
  | frameEnd => simp [performed, closeFrame_eq]
  | _ => rfl

/-- `RES` and `PHASE` (R24, R29). -/
theorem performed_res_phase {i : Instr} (h : ∀ m, i ≠ .frameStart m) (he : i ≠ .frameEnd) (s : State) :
    (performed i s).res = s.res ∧ (performed i s).phase = s.phase := by
  cases i with
  | frameStart m => exact absurd rfl (h m)
  | frameEnd => exact absurd rfl he
  | frameChar c =>
    obtain ⟨-, -, hphase, hres, -⟩ := takeChar_frame c s
    exact ⟨hres, hphase⟩
  | _ => exact ⟨rfl, rfl⟩

/-- `FCRC`, `H1`, `H0`, `LEN`, `HDR_OK` and `T6` to `T8` (R25). -/
theorem performed_bytes {i : Instr} (h : writesBytes i = false) (s : State) :
    (performed i s).fcrc = s.fcrc ∧ (performed i s).h1 = s.h1 ∧ (performed i s).h0 = s.h0 ∧ (performed i s).len = s.len ∧
    (performed i s).hdrOk = s.hdrOk ∧ (performed i s).t6 = s.t6 ∧ (performed i s).t7 = s.t7 ∧
    (performed i s).t8 = s.t8 := by
  cases i with
  | frameStart _ | frameByte _ | frameChar _ => cases h
  | frameEnd => simp [performed, closeFrame_eq]
  | _ => exact ⟨rfl, rfl, rfl, rfl, rfl, rfl, rfl, rfl⟩

/-- `NIB_PEND` and `NIB` (R25). -/
theorem performed_nibble {i : Instr} (h : writesNibble i = false) (s : State) :
    (performed i s).nibPend = s.nibPend ∧ (performed i s).nib = s.nib := by
  cases i with
  | frameStart _ | frameChar _ => cases h
  | frameEnd => simp [performed, closeFrame_eq]
  | _ => exact ⟨rfl, rfl⟩

/-- `DEC_ERR` (R25), but for FRAME_END. -/
theorem performed_decErr {i : Instr} (h : writesNibble i = false) (he : i ≠ .frameEnd) (s : State) :
    (performed i s).decErr = s.decErr := by
  cases i with
  | frameStart _ | frameChar _ => cases h
  | frameEnd => exact absurd rfl he
  | _ => rfl

/-- FRAME_END may set `DEC_ERR` to ODD_LENGTH only (R145). -/
theorem closeFrame_decErr (s : State) : (closeFrame s).decErr = s.decErr ∨ (closeFrame s).decErr = .oddLength := by
  simp only [closeFrame_eq]
  split
  · exact .inr rfl
  · exact .inl rfl

/-- `OP_ERR` and `ERR_CAUSE` (R30, R31): a performed command other than CLEAR_ERR leaves the record. -/
theorem performed_record {i : Instr} (h : i ≠ .clearErr) (s : State) :
    (performed i s).opErr = s.opErr ∧ (performed i s).errCause = s.errCause := by
  cases i with
  | clearErr => exact absurd rfl h
  | frameChar c =>
    obtain ⟨-, -, -, -, hop, hcause, -⟩ := takeChar_frame c s
    exact ⟨hop, hcause⟩
  | frameEnd => simp [performed, closeFrame_eq]
  | _ => exact ⟨rfl, rfl⟩

/-! ### The error record -/

/-- A refusal keeps the first cause (R222, R228). -/
theorem raiseOpError_keeps_record (c : ErrCause) {s : State} (hs : s.opErr = true) :
    (raiseOpError c s).opErr = true ∧ (raiseOpError c s).errCause = s.errCause := by
  simp [hs]

/-- Once a refusal is recorded, no command but CLEAR_ERR changes the record (R228). -/
theorem exec_keeps_record {i : Instr} {s t : State} (h : exec i s = .next t) (hi : i ≠ .clearErr) (hs : s.opErr = true) :
    t.opErr = true ∧ t.errCause = s.errCause := by
  obtain ⟨c, -, rfl⟩ | ⟨-, rfl⟩ := exec_next_cases h
  · exact raiseOpError_keeps_record c hs
  · obtain ⟨hop, hcause⟩ := performed_record hi s
    exact ⟨hop.trans hs, hcause⟩

/-- Settles O11, by what a step can do: it waits, or performs a word that is refused or is a command other than CLEAR_ERR. -/
theorem firstCauseIsKept : Obligations.FirstCauseIsKept := by
  intro s t hstep hs hclear hreset
  obtain ⟨-, rfl⟩ | ⟨rest, hp, -⟩ | ⟨w, rest, hp, hw⟩ := step_next_cases hstep
  · exact ⟨hs, rfl⟩
  · exact absurd (by simp [hp]) hreset
  · obtain ⟨i, hd, he⟩ | ⟨-, -, rfl⟩ := performWord_next_cases hw
    · have hi : i ≠ .clearErr := fun hi => hclear w (by simp [hp]) (hi ▸ hd)
      exact exec_keeps_record (s := setPort rest s) he hi hs
    · exact raiseOpError_keeps_record .illegal (s := setPort rest s) hs

/-- Settles O46: a refused command writes the error record only, and a performed one only the registers its rule names. -/
theorem onlyTheNamedCommandsWriteEachRegister : Obligations.OnlyTheNamedCommandsWriteEachRegister := by
  intro i s t h
  have hkeep := exec_keeps_record h
  obtain ⟨c, hc, rfl⟩ | ⟨hc, rfl⟩ := exec_next_cases h
  · simp +contextual [hc]
  · refine ⟨(performed_port i s).1, fun hi => performed_acc hi s, fun hi => performed_frameUnit hi s,
      fun hi => performed_mode hi s, fun hi he => performed_res_phase hi he s, fun hi => performed_bytes hi s,
      fun hi => performed_nibble hi s, fun hi he => performed_decErr hi he s, ?_, fun _ hi => performed_record hi s, hkeep⟩
    rintro rfl
    exact closeFrame_decErr s

/-! ### The invariant -/

/-- The invariant is about the frame unit and the error record only. -/
theorem Inv.congr {s t : State} (h : Inv s) (hu : frameUnit t = frameUnit s)
    (he : t.opErr = false ↔ t.errCause = .none) : Inv t := by
  obtain ⟨a, o, c, p, q, rfl⟩ := exists_eq_of_frameUnit_eq hu
  exact { h with errorRecord := he }

/-- Settles O50, clause by clause at the reset values (R37). -/
theorem resetMeetsTheInvariant : Obligations.ResetMeetsTheInvariant := by
  unfold Obligations.ResetMeetsTheInvariant
  constructor <;> decide

/-- A recorded cause is never NONE (R221). -/
theorem refusalCause_ne_none {i : Instr} {s : State} {c : ErrCause} (h : refusalCause i s = some c) : c ≠ .none := by
  rintro rfl
  cases i with
  | frameByte _ | frameChar _ => by_cases hp : s.phase = .collect <;> simp [refusalCause, hp] at h
  | frameEnd | vecRead _ _ => simp [refusalCause] at h
  | _ => cases h

/-- A refusal keeps the invariant: it writes the record alone, with a cause (R222). -/
theorem Inv.raiseOpError {s : State} (h : Inv s) {c : ErrCause} (hc : c ≠ .none) : Inv (raiseOpError c s) := by
  refine h.congr (frameUnit_raiseOpError c s) ?_
  cases ho : s.opErr with
  | false => simp [ho, hc]
  | true => simpa [ho] using h.errorRecord

/-- Opening a frame gives every frame register its initial value (R131). -/
theorem Inv.openFrame {s : State} (h : Inv s) (m : Mode) : Inv (openFrame m s) := by
  constructor <;> simp [h.errorRecord, Config.crcInit]

/-- A push into an open frame keeps the invariant: each register below its length was initial one byte before (R133, R134). -/
theorem Inv.push {s : State} (h : Inv s) (hp : s.phase = .collect) (d : Byte) : Inv (push d s) where
  errorRecord := h.errorRecord
  noResultYet := h.noResultYet
  resultOfFrame hd := by simp [hp] at hd
  byteFrame := h.byteFrame
  noNibble := h.noNibble
  oddLength := h.oddLength
  finished := h.finished
  idleFrame hi := by simp [hp] at hi
  delayLine hl := by
    simp only [push_len, nextLen_toNat, push_fcrc] at hl ⊢
    rw [if_neg (by omega), h.delayLine (by omega)]
  secondByte hl := by
    simp only [push_len, nextLen_toNat, push_h1] at hl ⊢
    exact h.firstByte (by omega)
  firstByte hl := by simp only [push_len, nextLen_toNat] at hl; omega
  headerStart hl := by simp only [push_len, nextLen_toNat] at hl; omega
  groupByte hl := by
    simp only [push_len, nextLen_toNat, push_t6] at hl ⊢
    rw [if_neg (by omega), h.groupByte (by omega)]
  markerByte hl := by
    simp only [push_len, nextLen_toNat, push_t7] at hl ⊢
    rw [if_neg (by omega), h.markerByte (by omega)]
  actionByte hl := by
    simp only [push_len, nextLen_toNat, push_t8] at hl ⊢
    rw [if_neg (by omega), h.actionByte (by omega)]

/-- In an open TEXT frame the text registers may take any values that hold no digit without its flag and no ODD_LENGTH (R137). -/
theorem Inv.setText {s : State} (h : Inv s) (hp : s.phase = .collect) (hm : s.mode = .text) {n : Nibble} {p : Bool} {e : DecErr}
    (hn : p = false → n = 0) (he : e ≠ .oddLength) : Inv { s with nib := n, nibPend := p, decErr := e } where
  errorRecord := h.errorRecord
  noResultYet := h.noResultYet
  resultOfFrame hd := by simp [hp] at hd
  byteFrame hb := by simp [hm] at hb
  noNibble := hn
  oddLength ho := absurd ho he
  finished hd := by simp [hp] at hd
  idleFrame hi := by simp [hp] at hi
  delayLine := h.delayLine
  secondByte := h.secondByte
  firstByte := h.firstByte
  headerStart := h.headerStart
  groupByte := h.groupByte
  markerByte := h.markerByte
  actionByte := h.actionByte

/-- A character of an open TEXT frame keeps the invariant, in each case of the hex front end (R137). -/
theorem Inv.takeChar {s : State} (h : Inv s) (hp : s.phase = .collect) (hm : s.mode = .text) (c : Byte) :
    Inv (takeChar c s) := by
  obtain ⟨-, ht⟩ | ⟨-, -, ht⟩ | ⟨hd, -, v, -, -, ht⟩ | ⟨hd, -, v, -, -, ht⟩ | ⟨-, -, -, ht⟩ := takeChar_cases c s <;>
    rw [ht]
  · exact h
  · exact h
  · exact h.setText hp hm (by simp) (by simp [hd])
  · exact (h.push hp _).setText hp hm (fun _ => rfl) (by simp [hd])
  · exact h.setText hp hm h.noNibble (by simp)

/-- Closing an open frame keeps the invariant: RES is the result of the registers it leaves, and a waiting digit has become a
decode error (R145, R146). -/
theorem Inv.closeFrame {s : State} (h : Inv s) (hp : s.phase = .collect) : Inv (closeFrame s) := by
  have hodd : s.decErr ≠ .oddLength := fun ho => by simpa [hp] using (h.oddLength ho).1
  have hbyte := h.byteFrame
  rw [closeFrame_eq]
  exact {
    errorRecord := h.errorRecord
    noResultYet := fun hd => absurd rfl hd
    resultOfFrame := fun _ => by
      rw [finishText_eq]
      exact frameResult_congr rfl rfl rfl rfl rfl rfl rfl rfl rfl
    byteFrame := fun (hb : s.mode = .byte) => by simp [hb, hbyte hb]
    noNibble := h.noNibble
    oddLength := fun ho => by
      refine ⟨rfl, ?_⟩
      by_contra hn
      simp [hn, hodd] at ho
    finished := fun _ hn => by
      have hm : s.mode = .text := by
        cases hm : s.mode with
        | byte => exact absurd hn (by simp [(hbyte hm).2])
        | text => rfl
      by_cases hd : s.decErr = .none
      · simp [hm, hd, show s.nibPend = true from hn]
      · simp [hd]
    idleFrame := fun hi => by cases hi
    delayLine := h.delayLine
    secondByte := h.secondByte
    firstByte := h.firstByte
    headerStart := h.headerStart
    groupByte := h.groupByte
    markerByte := h.markerByte
    actionByte := h.actionByte }

/-- A performed command keeps the invariant. -/
theorem Inv.performed {s : State} (h : Inv s) {i : Instr} (hc : refusalCause i s = none) : Inv (performed i s) := by
  cases i with
  | frameStart m => exact h.openFrame m
  | frameByte d => exact h.push (by by_contra hp; simp [refusalCause, hp] at hc) d
  | frameChar c =>
    have hp : s.phase = .collect := by by_contra hp; simp [refusalCause, hp] at hc
    have hm : s.mode = .text := by cases hm : s.mode <;> simp [refusalCause, hp, hm] at hc ⊢
    exact h.takeChar hp hm c
  | frameEnd => exact h.closeFrame (by by_contra hp; simp [refusalCause, hp] at hc)
  | clearErr => exact h.congr rfl (by simp [Machine.performed])
  | _ => exact h.congr rfl h.errorRecord

/-- A command keeps the invariant, whether it is refused or performed. -/
theorem Inv.exec {s t : State} (h : Inv s) {i : Instr} (he : exec i s = .next t) : Inv t := by
  obtain ⟨c, hc, rfl⟩ | ⟨hc, rfl⟩ := exec_next_cases he
  · exact h.raiseOpError (refusalCause_ne_none hc)
  · exact (h.performed hc).congr (frameUnit_respond _ _) (h.performed hc).errorRecord

/-- Settles O49: waiting and reset are immediate, an illegal word is a refusal, and every command keeps the invariant. -/
theorem everyStepKeepsTheInvariant : Obligations.EveryStepKeepsTheInvariant := by
  intro s t h hstep
  obtain ⟨-, rfl⟩ | ⟨rest, -, rfl⟩ | ⟨w, rest, -, hw⟩ := step_next_cases hstep
  · exact h
  · exact Inv.congr resetMeetsTheInvariant (frameUnit_applyReset _) resetMeetsTheInvariant.errorRecord
  · have h' : Inv (setPort rest s) := h.congr (frameUnit_setPort rest s) h.errorRecord
    obtain ⟨i, -, he⟩ | ⟨-, -, rfl⟩ := performWord_next_cases hw
    · exact h'.exec he
    · exact h'.raiseOpError (by decide)

end Sys2Proof.Machine
end

section
/-! PROOFS. The frame unit evolves by itself: what a word does to it depends on the frame unit alone (10_state.md R26), so
words of the other units may be left out. -/


namespace Sys2Proof.Machine


/-- A character of the hex front end reads no register outside the frame unit. -/
theorem takeChar_frameUnit_congr (c : Byte) {s s' : State} (h : frameUnit s = frameUnit s') :
    frameUnit (takeChar c s) = frameUnit (takeChar c s') := by
  obtain ⟨a, o, e, p, q, rfl⟩ := exists_eq_of_frameUnit_eq h
  simp only [takeChar, takeDigit]
  split
  · rfl
  split
  · rfl
  split
  · split <;> rfl
  · rfl


/-- Closing a frame reads no register outside the frame unit. -/
theorem closeFrame_frameUnit_congr {s s' : State} (h : frameUnit s = frameUnit s') :
    frameUnit (closeFrame s) = frameUnit (closeFrame s') := by
  obtain ⟨a, o, e, p, q, rfl⟩ := exists_eq_of_frameUnit_eq h
  simp only [closeFrame_eq, finishText_eq]
  rfl


/-- A performed command leads from equal frame units to equal frame units. -/
theorem performed_frameUnit_congr (i : Instr) {s s' : State} (h : frameUnit s = frameUnit s') :
    frameUnit (performed i s) = frameUnit (performed i s') := by
  cases i with
  | frameStart _ => rfl
  | frameByte _ =>
    obtain ⟨a, o, e, p, q, rfl⟩ := exists_eq_of_frameUnit_eq h
    rfl
  | frameChar c => exact takeChar_frameUnit_congr c h
  | frameEnd => exact closeFrame_frameUnit_congr h
  | _ => exact h


/-- Whether a command is refused, and why, depends on the frame unit alone. -/
theorem refusalCause_congr (i : Instr) {s s' : State} (h : frameUnit s = frameUnit s') :
    refusalCause i s = refusalCause i s' := by
  have hp : s.phase = s'.phase := congrArg FrameUnit.phase h
  have hm : s.mode = s'.mode := congrArg FrameUnit.mode h
  cases i <;> simp only [refusalCause, hp, hm]


/-- A command leads from equal frame units to equal frame units. -/
theorem exec_frameUnit_congr {i : Instr} {s s' t t' : State} (h : frameUnit s = frameUnit s')
    (he : exec i s = .next t) (he' : exec i s' = .next t') : frameUnit t = frameUnit t' := by
  have hc := refusalCause_congr i h
  obtain ⟨c, hr, rfl⟩ | ⟨hr, rfl⟩ := exec_next_cases he <;>
    obtain ⟨c', hr', rfl⟩ | ⟨hr', rfl⟩ := exec_next_cases he'
  · exact h
  · simp [hr, hr'] at hc
  · simp [hr, hr'] at hc
  · exact performed_frameUnit_congr i h


/-- A word leads from equal frame units to equal frame units. -/
theorem performWord_frameUnit_congr {w : Word} {s s' t t' : State} (h : frameUnit s = frameUnit s')
    (hw : performWord w s = .next t) (hw' : performWord w s' = .next t') : frameUnit t = frameUnit t' := by
  cases hd : decode w with
  | ok i =>
    rw [performWord_ok hd] at hw hw'
    exact exec_frameUnit_congr h hw hw'
  | illegal why =>
    rw [performWord_illegal hd] at hw hw'
    cases hw
    cases hw'
    exact h


/-- The word is a command that writes the frame unit's registers. -/
def isFrameWord (w : Word) : Bool :=
  match decode w with
  | .ok i => writesFrame i
  | .illegal _ => false


/-- Any other word, illegal words included, leaves the frame unit alone. -/
theorem performWord_frameUnit {w : Word} {s t : State} (hn : isFrameWord w = false) (hw : performWord w s = .next t) :
    frameUnit t = frameUnit s := by
  obtain ⟨i, hd, he⟩ | ⟨why, -, rfl⟩ := performWord_next_cases hw
  · obtain ⟨c, -, rfl⟩ | ⟨-, rfl⟩ := exec_next_cases he
    · rfl
    · exact performed_frameUnit (by simpa only [isFrameWord, hd] using hn) s
  · rfl


/-- The next word at the port is performed, and the words after it remain. -/
theorem step_commands {w : Word} {ws : List Word} {s : State} (hp : s.port = commands (w :: ws)) :
    ∃ t, step s = .next t ∧ performWord w (setPort (commands ws) s) = .next t ∧ t.port = commands ws := by
  obtain ⟨t, ht, hport⟩ := performWord_answers w (setPort (commands ws) s)
  exact ⟨t, (takeEvent_command hp).trans ht, ht, hport⟩


/-- Two blocks with equal frame units, one given all the words and the other the frame words alone, end with equal frame units. -/
theorem run_frameWords (ws : List Word) {s s' : State} (h : frameUnit s = frameUnit s') (hp : s.port = commands ws)
    (hp' : s'.port = commands (ws.filter isFrameWord)) :
    ∃ t t', run ws.length s = .next t ∧ run (ws.filter isFrameWord).length s' = .next t' ∧ frameUnit t = frameUnit t' := by
  induction ws generalizing s s' with
  | nil => exact ⟨s, s', run_zero s, run_zero s', h⟩
  | cons w ws ih =>
    obtain ⟨u, hstep, hw, hport⟩ := step_commands hp
    rw [List.length_cons, run_succ _ hstep]
    cases hf : isFrameWord w with
    | false =>
      rw [List.filter_cons_of_neg (by simp [hf])] at hp' ⊢
      exact ih ((performWord_frameUnit hf hw).trans h) hport hp'
    | true =>
      rw [List.filter_cons_of_pos hf] at hp' ⊢
      obtain ⟨u', hstep', hw', hport'⟩ := step_commands hp'
      rw [List.length_cons, run_succ _ hstep']
      have hset : frameUnit (setPort (commands ws) s) = frameUnit (setPort (commands (ws.filter isFrameWord)) s') := h
      exact ih (performWord_frameUnit_congr hset hw hw') hport hport'


/-- Settles O47, as the case of two runs from one state. -/
theorem otherUnitsDoNotDisturbAFrame : Obligations.OtherUnitsDoNotDisturbAFrame :=
  fun s ws => run_frameWords ws (s := { s with port := commands ws })
    (s' := { s with port := commands (ws.filter isFrameWord) }) rfl rfl rfl


end Sys2Proof.Machine
end

section
/-! PROOFS. The reset values (R37) and the layout of the RES word (R33). -/


namespace Sys2Proof.Machine


/-- Settles O13, register by register (R37). -/
theorem resetStateHoldsTheResetValues : Obligations.ResetStateHoldsTheResetValues := by
  unfold Obligations.ResetStateHoldsTheResetValues
  exact ⟨rfl, rfl, rfl, rfl, rfl, rfl, rfl, rfl, rfl, rfl, rfl, rfl, rfl, rfl, by decide, rfl, rfl, by decide, rfl⟩


/-- The bits of a flag as a word. -/
@[simp] theorem bitWord_getElem (b : Bool) (i : Nat) (hi : i < 16) : (bitWord b)[i] = (decide (i = 0) && b) := by
  cases b <;> simp [bitWord]


/-- A word below `2 ^ k` has no bit from `k` on. -/
theorem getElem_of_lt_two_pow {x : Word} {k : Nat} (hx : x.toNat < 2 ^ k) (i : Nat) (hi : i < 16) (hk : k ≤ i) :
    x[i] = false :=
  Nat.testBit_lt_two_pow (hx.trans_le (Nat.pow_le_pow_right two_pos hk))


/-- The codes of OUTCOME, of CMD and of DEC_DETAIL fit their fields (R33). -/
theorem FrameOutcome.code_lt (o : FrameOutcome) : o.code.toNat < 2 ^ 3 := by cases o <;> decide
theorem CommandType.code_lt (k : CommandType) : k.code.toNat < 2 ^ 3 := by cases k <;> decide
theorem DecErr.code_lt (d : DecErr) : d.code.toNat < 2 ^ 2 := by cases d <;> decide


/-- The RES word holds each code at its bits: every field ends where the next begins, so no two overlap (R33). -/
theorem Result.word_fields (r : Result) :
    r.word.extractLsb' 0 3 = r.outcome.code.setWidth 3 ∧
    r.word.getLsbD 3 = r.chkValid ∧
    r.word.extractLsb' 4 3 = r.cmd.code.setWidth 3 ∧
    r.word.getLsbD 7 = r.verify ∧
    r.word.extractLsb' 8 2 = r.decDetail.code.setWidth 2 ∧
    r.word.getLsbD 10 = r.hdrMatch ∧
    r.word.extractLsb' 11 5 = 0 := by
  have ho := getElem_of_lt_two_pow r.outcome.code_lt
  have hk := getElem_of_lt_two_pow r.cmd.code_lt
  have hd := getElem_of_lt_two_pow r.decDetail.code_lt
  refine ⟨?_, ?_, ?_, ?_, ?_, ?_, ?_⟩
  · ext i hi
    interval_cases i <;> simp [Result.word]
  · simp [Result.word, ho]
  · ext i hi
    interval_cases i <;> simp [Result.word, ho]
  · simp [Result.word, ho, hk]
  · ext i hi
    interval_cases i <;> simp [Result.word, ho, hk]
  · simp [Result.word, ho, hk, hd]
  · ext i hi
    interval_cases i <;> simp [Result.word, ho, hk, hd]


/-- Settles O31: each field is its code at its bits, and the codes are those of R33 and R171. -/
theorem resultWordLayout : Obligations.ResultWordLayout := by
  intro r
  obtain ⟨ho, hv, hk, hverify, hd, hh, hz⟩ := r.word_fields
  refine ⟨ho.trans ?_, hv, hk.trans ?_, hverify, hd.trans ?_, hh, hz⟩
  · cases r.outcome <;> rfl
  · cases r.cmd <;> rfl
  · cases r.decDetail <;> rfl


end Sys2Proof.Machine
end

section
/-! PROOFS. The command port: a step performs the decoded command (20_memory.md R58), and the reads change nothing but the
responses given (R57). -/


namespace Sys2Proof.Machine


/-- Settles O7: the command word leaves the port, and performing a word that decodes is its command. -/
theorem stepPerformsTheDecodedCommand : Obligations.StepPerformsTheDecodedCommand := by
  intro s w rest i hp hd
  calc step s
    _ = performWord w (setPort rest s) := takeEvent_command hp
    _ = exec i (setPort rest s) := performWord_ok hd _


/-- A read is never refused (VEC_READ has its index in range), and it writes no register. -/
theorem read_performed {i : Instr} (h : isRead i = true) (s : State) :
    refusalCause i s = none ∧ performed i s = s := by
  cases i with
  | crcRead | resultRead | statusRead => exact ⟨rfl, rfl⟩
  | vecRead i j =>
    have hi : i.toNat ≤ 4 := of_decide_eq_true h
    exact ⟨if_neg (by omega), rfl⟩
  | _ => cases h


/-- A read gives its response and does nothing else (R57). -/
theorem exec_read {i : Instr} (h : isRead i = true) (s : State) : exec i s = .next (respond (responseWord i s) s) := by
  obtain ⟨hc, hs⟩ := read_performed h s
  obtain ⟨c, hr, -⟩ | ⟨-, he⟩ := exec_cases i s
  · simp [hc] at hr
  · rw [he, hs]


/-- The response of a command does not depend on the responses given before it. -/
theorem responseWord_respond (i : Instr) (r : Word) (s : State) : responseWord i (respond r s) = responseWord i s := by
  cases i <;> rfl


/-- Settles O48: the second read finds every register as the first found it, so it answers the same word. -/
theorem readsChangeNothingAndRepeat : Obligations.ReadsChangeNothingAndRepeat := by
  intro i s h
  refine ⟨responseWord i s, exec_read h s, ?_⟩
  calc exec i (respond (responseWord i s) s)
    _ = .next (respond (responseWord i (respond (responseWord i s) s)) (respond (responseWord i s) s)) := exec_read h _
    _ = .next (respond (responseWord i s) (respond (responseWord i s) s)) := by rw [responseWord_respond]


end Sys2Proof.Machine
end

section
/-! PROOFS. Words and their fields (30_encoding.md R71 to R75), what decoding gives by the shape of the row (R79), and that
decoding and encoding are inverse to each other (R72). -/

namespace Sys2Proof.Machine

/-! ### A word and its fields (R71) -/

/-- A word as a number, from its three fields. -/
theorem word_toNat_fields (w : Word) :
    w.toNat = (opField w).toNat * 4096 + (subField w).toNat * 256 + (dataField w).toNat := by
  rw [opField_toNat, subField_toNat, dataField_toNat]
  omega

/-- Words are equal when their fields are. -/
theorem word_eq_iff_fields (a b : Word) :
    a = b ↔ opField a = opField b ∧ subField a = subField b ∧ dataField a = dataField b := by
  refine ⟨fun h => h ▸ ⟨rfl, rfl, rfl⟩, fun ⟨hop, hsub, hdata⟩ => word_ext ?_⟩
  rw [word_toNat_fields a, word_toNat_fields b, hop, hsub, hdata]

/-- The fields of a word whose `SUB` is 0. -/
theorem fields_of_toNat {w : Word} (op : Nibble) (d : Byte) (h : w.toNat = op.toNat * 4096 + d.toNat) :
    opField w = op ∧ subField w = 0 ∧ dataField w = d := by
  have hd := d.isLt
  refine ⟨BitVec.eq_of_toNat_eq ?_, BitVec.eq_of_toNat_eq ?_, BitVec.eq_of_toNat_eq ?_⟩
  · rw [opField_toNat, h]; omega
  · rw [subField_toNat, h]; show _ = 0; omega
  · rw [dataField_toNat, h]; omega

/-- The two indices of VEC_READ are the halves of `DATA` (R75). -/
theorem dataField_eq_indices (w : Word) : dataField w = joinNibbles (iField w) (jField w) := by
  apply BitVec.eq_of_toNat_eq
  rw [dataField_toNat, joinNibbles_toNat, iField, jField, BitVec.extractLsb'_toNat, BitVec.extractLsb'_toNat,
    Nat.shiftRight_eq_div_pow, Nat.shiftRight_zero]
  omega

/-- `DATA` determines the two indices. -/
theorem indices_of_dataField {w : Word} {i j : Nibble} (h : dataField w = joinNibbles i j) :
    iField w = i ∧ jField w = j := by
  have hn : (joinNibbles (iField w) (jField w)).toNat = (joinNibbles i j).toNat := by rw [← dataField_eq_indices, h]
  rw [joinNibbles_toNat, joinNibbles_toNat] at hn
  have hj := j.isLt
  have hj' := (jField w).isLt
  constructor <;> apply BitVec.eq_of_toNat_eq <;> omega

/-- The mode operand as a number (R74). -/
theorem modeField_bit_toNat (w : Word) : (modeField w).bit.toNat = w.toNat / 256 % 2 := by
  have hbit : w.getLsbD 8 = decide (w.toNat / 256 % 2 = 1) := Nat.testBit_eq_decide_div_mod_eq
  obtain h | h := Nat.mod_two_eq_zero_or_one (w.toNat / 256) <;>
    · rw [modeField, hbit, h]
      rfl

/-- With `w[11:9]` 0, `SUB` is the mode bit (R74). -/
theorem subField_toNat_of_start {w : Word} (h : startReserved w = 0) :
    (subField w).toNat = (modeField w).bit.toNat := by
  have hz : w.toNat / 512 % 8 = 0 := by rw [← startReserved_toNat, h]; rfl
  rw [subField_toNat, modeField_bit_toNat]
  omega

/-! ### What decoding gives, by the shape of the row (R79) -/

@[simp] theorem decodePlain_eq_ok_iff {w : Word} {i k : Instr} :
    decodePlain w i = .ok k ↔ subField w = 0 ∧ dataField w = 0 ∧ i = k := by
  unfold decodePlain
  split
  · simp_all
  · split <;> simp_all

@[simp] theorem decodeData_eq_ok_iff {w : Word} {i k : Instr} : decodeData w i = .ok k ↔ subField w = 0 ∧ i = k := by
  unfold decodeData
  split <;> simp_all

@[simp] theorem decodeStart_eq_ok_iff {w : Word} {k : Instr} :
    decodeStart w = .ok k ↔ startReserved w = 0 ∧ dataField w = 0 ∧ .frameStart (modeField w) = k := by
  unfold decodeStart
  split
  · simp_all
  · split <;> simp_all

/-- A word of the reserved row decodes to its other 14 bits (R72, R204). -/
theorem decode_of_reserved {w : Word} (h : 12 ≤ (opField w).toNat) : decode w = .ok (.reserved (w.extractLsb' 0 14)) := by
  revert h
  refine op_cases w fun n hn hop h => ?_
  rw [hop, BitVec.toNat_ofNat] at h
  have h' : 12 ≤ n := by omega
  interval_cases n <;> simp [decode, hop]

/-! ### Decoding and encoding are inverse to each other (R72) -/

/-- No bit is dropped from a word of a command without operand. -/
theorem encode_of_decodePlain {w : Word} {i k : Instr} (hi : (encode i).toNat = (opField w).toNat * 4096)
    (h : decodePlain w i = .ok k) : encode k = w := by
  obtain ⟨hsub, hdata, rfl⟩ := decodePlain_eq_ok_iff.mp h
  apply word_ext
  simp [word_toNat_fields w, hi, hsub, hdata]

/-- No bit is dropped from a word whose operand is all of `DATA`. -/
theorem encode_of_decodeData {w : Word} {i k : Instr}
    (hi : (encode i).toNat = (opField w).toNat * 4096 + (dataField w).toNat) (h : decodeData w i = .ok k) :
    encode k = w := by
  obtain ⟨hsub, rfl⟩ := decodeData_eq_ok_iff.mp h
  apply word_ext
  simp [word_toNat_fields w, hi, hsub]

/-- No bit is dropped from a word of FRAME_START. -/
theorem encode_of_decodeStart {w : Word} {k : Instr} (hop : opField w = 4) (h : decodeStart w = .ok k) :
    encode k = w := by
  obtain ⟨hres, hdata, rfl⟩ := decodeStart_eq_ok_iff.mp h
  apply word_ext
  simp [word_toNat_fields w, encode_toNat, hop, hdata, subField_toNat_of_start hres]

/-- No bit is dropped from a word of the reserved row. -/
theorem encode_reserved_extract {w : Word} (h : 12 ≤ (opField w).toNat) : encode (.reserved (w.extractLsb' 0 14)) = w := by
  have hw := w.isLt
  have hx : (w.extractLsb' 0 14).toNat = w.toNat % 2 ^ 14 := by simp
  rw [opField_toNat] at h
  apply word_ext
  simp only [encode_toNat, hx]
  omega

/-- A word that decodes is the word of its command. -/
theorem encode_of_decode {w : Word} {i : Instr} (h : decode w = .ok i) : encode i = w := by
  by_cases hr : 12 ≤ (opField w).toNat
  · obtain rfl := Decoded.ok.inj ((decode_of_reserved hr).symm.trans h)
    exact encode_reserved_extract hr
  · refine op_cases w fun n _ hop => ?_
    have hn : n < 12 := by rw [hop, BitVec.toNat_ofNat] at hr; omega
    rw [decode, hop] at h
    match n, hop, h with
    | 0, hop, h | 1, hop, h | 3, hop, h | 7, hop, h | 8, hop, h | 10, hop, h | 11, hop, h =>
      exact encode_of_decodePlain (by rw [hop]; rfl) h
    | 2, hop, h | 5, hop, h | 6, hop, h => exact encode_of_decodeData (by rw [hop]; exact encode_toNat _) h
    | 4, hop, h => exact encode_of_decodeStart hop h
    | 9, hop, h =>
      refine encode_of_decodeData ?_ h
      rw [hop, encode_toNat, dataField_eq_indices, joinNibbles_toNat, ← Nat.add_assoc]
      rfl
    | k + 12, _, _ => omega

/-- A command whose operand is all of `DATA` decodes from its own word, once its operation code selects its row. -/
theorem decode_encode_of_data {i : Instr} (op : Nibble) (d : Byte) (he : (encode i).toNat = op.toNat * 4096 + d.toNat)
    (hrow : ∀ w, opField w = op → dataField w = d → decode w = decodeData w i) : decode (encode i) = .ok i := by
  obtain ⟨hop, hsub, hdata⟩ := fields_of_toNat op d he
  exact (hrow _ hop hdata).trans (decodeData_eq_ok_iff.mpr ⟨hsub, rfl⟩)

/-- The word of VEC_READ has its two indices in `DATA` (R75). -/
theorem encode_vecRead_toNat (i j : Nibble) :
    (encode (.vecRead i j)).toNat = (9 : Nibble).toNat * 4096 + (joinNibbles i j).toNat := by
  rw [encode_toNat, joinNibbles_toNat, ← Nat.add_assoc]
  rfl

/-- A reserved word is of the reserved row, and its other 14 bits are the operand (R72). -/
theorem fields_encode_reserved (x : BitVec 14) :
    12 ≤ (opField (encode (.reserved x))).toNat ∧ (encode (.reserved x)).extractLsb' 0 14 = x := by
  have hx := x.isLt
  have hw : (encode (.reserved x)).toNat = 0xC000 + x.toNat := encode_toNat _
  refine ⟨?_, BitVec.eq_of_toNat_eq ?_⟩
  · rw [opField_toNat, hw]
    omega
  · rw [BitVec.extractLsb'_toNat, hw, Nat.shiftRight_zero]
    omega

/-- Settles O1, by the shape of the command's row. -/
theorem decodeOfEncodeIsTheInstruction : Obligations.DecodeOfEncodeIsTheInstruction := by
  intro i
  cases i with
  | nop | crcInit | crcRead | frameEnd | resultRead | statusRead | clearErr => rfl
  | frameStart m => cases m <;> rfl
  | crcByte d => exact decode_encode_of_data 2 d (encode_toNat _) fun w hop hd => by simp [decode, hop, hd]
  | frameByte d => exact decode_encode_of_data 5 d (encode_toNat _) fun w hop hd => by simp [decode, hop, hd]
  | frameChar c => exact decode_encode_of_data 6 c (encode_toNat _) fun w hop hc => by simp [decode, hop, hc]
  | vecRead i j =>
    refine decode_encode_of_data 9 _ (encode_vecRead_toNat i j) fun w hop hd => ?_
    obtain ⟨hi, hj⟩ := indices_of_dataField hd
    simp [decode, hop, hi, hj]
  | reserved x =>
    obtain ⟨hop, hx⟩ := fields_encode_reserved x
    rw [decode_of_reserved hop, hx]

/-- Settles O2: no shape of row drops a bit. -/
theorem decodedWordIsTheEncoding : Obligations.DecodedWordIsTheEncoding :=
  fun _ _ => encode_of_decode

/-- Decoding finds exactly the command whose word it is given (R72). -/
theorem decode_eq_ok_iff {w : Word} {i : Instr} : decode w = .ok i ↔ encode i = w :=
  ⟨encode_of_decode, fun h => h ▸ decodeOfEncodeIsTheInstruction i⟩

end Sys2Proof.Machine
end

section
/-! PROOFS. The rows of the opcode map (30_encoding.md R72): they do not overlap, and the legal words are those of the commands'
rows (R76). -/

namespace Sys2Proof.Machine

/-- Two rows of the map differ in a bit that both masks keep. -/
theorem opcodeRows_differ : opcodeRows.Pairwise (fun r r' => r.1 &&& r'.2.1 ≠ r'.1 &&& r.2.1) := by decide

/-- A word that matches two rows agrees with both in every bit that both masks keep. -/
theorem agree_of_rowMatches {r r' : Word × Word × Bool} {w : Word} (h : rowMatches r w = true)
    (h' : rowMatches r' w = true) : r.1 &&& r'.2.1 = r'.1 &&& r.2.1 := by
  rw [← eq_of_beq h, ← eq_of_beq h', BitVec.and_assoc, BitVec.and_assoc, BitVec.and_comm r.2.1]

/-- Settles O3: were two rows left, the word would agree with both where they differ. -/
theorem opcodeRowsNeverOverlap : Obligations.OpcodeRowsNeverOverlap := by
  intro w
  have hdiffer := opcodeRows_differ.filter (fun r => rowMatches r w)
  have hmatch : ∀ r ∈ opcodeRows.filter (fun r => rowMatches r w), rowMatches r w = true :=
    fun r hr => (List.mem_filter.mp hr).2
  generalize opcodeRows.filter (fun r => rowMatches r w) = rows at hdiffer hmatch ⊢
  match rows with
  | [] | [_] => simp
  | r :: r' :: _ =>
    have hne := List.rel_of_pairwise_cons hdiffer (List.mem_cons_self ..)
    exact absurd (agree_of_rowMatches (hmatch r (by simp)) (hmatch r' (by simp))) hne

/-- A word matches a row field by field. -/
theorem rowMatches_iff (r : Word × Word × Bool) (w : Word) :
    rowMatches r w = true ↔
      opField w &&& opField r.2.1 = opField r.1 ∧ subField w &&& subField r.2.1 = subField r.1 ∧
      dataField w &&& dataField r.2.1 = dataField r.1 := by
  rw [rowMatches, beq_iff_eq, word_eq_iff_fields]
  simp only [opField, subField, dataField, BitVec.extractLsb'_and]

/-- The mask of a command without operand keeps every bit. -/
theorem rowMatches_plain {op : Nibble} {m : Word} (hm : m.toNat = op.toNat * 4096) {b : Bool} {w : Word} :
    rowMatches (m, 0xFFFF#16, b) w = true ↔ opField w = op ∧ subField w = 0 ∧ dataField w = 0 := by
  obtain ⟨hop, hsub, hdata⟩ := fields_of_toNat op 0 (by simpa using hm)
  have hmask : w &&& 0xFFFF#16 = w := BitVec.and_allOnes
  rw [rowMatches, beq_iff_eq, hmask, word_eq_iff_fields, hop, hsub, hdata]

/-- The mask of a command whose operand is all of `DATA` keeps the other fields. -/
theorem rowMatches_data {op : Nibble} {m : Word} (hm : m.toNat = op.toNat * 4096) {b : Bool} {w : Word} :
    rowMatches (m, 0xFF00#16, b) w = true ↔ opField w = op ∧ subField w = 0 := by
  obtain ⟨hop, hsub, hdata⟩ := fields_of_toNat op 0 (by simpa using hm)
  have hopMask : opField 0xFF00#16 = BitVec.allOnes 4 := rfl
  have hsubMask : subField 0xFF00#16 = BitVec.allOnes 4 := rfl
  have hdataMask : dataField 0xFF00#16 = 0 := rfl
  simp only [rowMatches_iff, hop, hsub, hdata, hopMask, hsubMask, hdataMask, BitVec.and_allOnes]
  simp

/-- `w[11:9]` is the high part of `SUB` (R74). -/
theorem startReserved_eq_subField (w : Word) : startReserved w = (subField w).extractLsb' 1 3 := by
  apply BitVec.eq_of_toNat_eq
  rw [startReserved_toNat, BitVec.extractLsb'_toNat, subField_toNat, Nat.shiftRight_eq_div_pow]
  omega

/-- The mask of FRAME_START drops the mode bit alone. -/
theorem rowMatches_start {b : Bool} {w : Word} :
    rowMatches (0x4000#16, 0xFEFF#16, b) w = true ↔ opField w = 4 ∧ startReserved w = 0 ∧ dataField w = 0 := by
  have hsub : ∀ x : Nibble, x &&& subField 0xFEFF#16 = subField 0x4000#16 ↔ x.extractLsb' 1 3 = 0 := by decide
  have hopMask : opField 0xFEFF#16 = BitVec.allOnes 4 := rfl
  have hdataMask : dataField 0xFEFF#16 = BitVec.allOnes 8 := rfl
  have hop : opField 0x4000#16 = 4 := rfl
  have hdata : dataField 0x4000#16 = 0 := rfl
  simp only [rowMatches_iff, hsub, startReserved_eq_subField, hopMask, hdataMask, hop, hdata, BitVec.and_allOnes]

/-- The fields of a legal word (R76). -/
def LegalFields (w : Word) : Prop :=
  (opField w ∈ [0x0, 0x1, 0x3, 0x7, 0x8, 0xA, 0xB] ∧ subField w = 0 ∧ dataField w = 0) ∨
  (opField w ∈ [0x2, 0x5, 0x6, 0x9] ∧ subField w = 0) ∨
  (opField w = 0x4 ∧ startReserved w = 0 ∧ dataField w = 0)

/-- The commands' rows match the words with the fields of a legal word. -/
theorem exists_commandRow_iff (w : Word) :
    (∃ r ∈ opcodeRows, r.2.2 = true ∧ rowMatches r w = true) ↔ LegalFields w := by
  refine op_cases w fun n hn hop => ?_
  simp only [LegalFields, opcodeRows, List.exists_mem_cons_iff, List.not_mem_nil, false_and, exists_false,
    rowMatches_plain (op := 0x0) (m := 0x0000#16) rfl, rowMatches_plain (op := 0x1) (m := 0x1000#16) rfl,
    rowMatches_data (op := 0x2) (m := 0x2000#16) rfl, rowMatches_plain (op := 0x3) (m := 0x3000#16) rfl,
    rowMatches_start, rowMatches_data (op := 0x5) (m := 0x5000#16) rfl,
    rowMatches_data (op := 0x6) (m := 0x6000#16) rfl, rowMatches_plain (op := 0x7) (m := 0x7000#16) rfl,
    rowMatches_plain (op := 0x8) (m := 0x8000#16) rfl, rowMatches_data (op := 0x9) (m := 0x9000#16) rfl,
    rowMatches_plain (op := 0xA) (m := 0xA000#16) rfl, rowMatches_plain (op := 0xB) (m := 0xB000#16) rfl, hop]
  interval_cases n <;> simp

/-- A legal word decodes to a legal command. -/
theorem legalWord_iff {w : Word} : legalWord w = true ↔ ∃ i, decode w = .ok i ∧ i.legal = true := by
  cases hd : decode w <;> simp [legalWord, hd]

/-- A word is legal by its fields, operation code by operation code. -/
theorem legalWord_iff_fields (w : Word) : legalWord w = true ↔ LegalFields w := by
  refine op_cases w fun n hn hop => ?_
  rw [legalWord_iff, LegalFields, decode, hop]
  interval_cases n <;> simp [Instr.legal]

/-- The fields of an illegal word are those R76 lists. -/
theorem not_legalFields_iff (w : Word) :
    ¬ LegalFields w ↔
      0xC ≤ (opField w).toNat ∨
      (opField w ≠ 4 ∧ subField w ≠ 0) ∨
      (opField w = 4 ∧ startReserved w ≠ 0) ∨
      (opField w ∈ [0x0, 0x1, 0x3, 0x4, 0x7, 0x8, 0xA, 0xB] ∧ dataField w ≠ 0) := by
  refine op_cases w fun n hn hop => ?_
  rw [LegalFields, hop]
  interval_cases n <;> simp [imp_iff_not_or]

/-- The commands that are not legal are those of the reserved row. -/
theorem eq_reserved_of_not_legal {i : Instr} (h : i.legal = false) : ∃ x, i = .reserved x := by
  cases i with
  | reserved x => exact ⟨x, rfl⟩
  | _ => cases h

/-- An illegal word, reserved or not, is refused with ILLEGAL (R76, R204). -/
theorem performWord_of_not_legalWord {w : Word} (h : legalWord w = false) (s : State) :
    performWord w s = .next (refusedWith .illegal s) := by
  cases hd : decode w with
  | illegal why => exact performWord_illegal hd s
  | ok i =>
    have hi : i.legal = false := by simpa only [legalWord, hd] using h
    obtain ⟨x, rfl⟩ := eq_reserved_of_not_legal hi
    exact performWord_ok hd s

/-- Settles O4: the words decoded to a command, the words of the commands' rows and the words outside R76's list all have the
fields of a legal word. -/
theorem legalWordsAreTheRowsOfTheMap : Obligations.LegalWordsAreTheRowsOfTheMap := by
  intro w
  refine ⟨(legalWord_iff_fields w).trans (exists_commandRow_iff w).symm, ?_, fun h s rest hp => ?_⟩
  · rw [← Bool.not_eq_true, legalWord_iff_fields, not_legalFields_iff]
  · exact (takeEvent_command hp).trans (performWord_of_not_legalWord h _)

end Sys2Proof.Machine
end

section
/-! PROOFS. The number of legal words (30_encoding.md R80): one for each command, since a command has exactly one word. -/

namespace Sys2Proof.Machine

/-- Commands have different words (R72). -/
theorem encode_injective : Function.Injective encode := fun i k h =>
  Decoded.ok.inj ((decodeOfEncodeIsTheInstruction i).symm.trans (h ▸ decodeOfEncodeIsTheInstruction k))

/-- As many words decode to one of some commands as there are commands. -/
theorem numberOfWords_of_commands {p : Word → Prop} (is : List Instr) (hnd : is.Nodup)
    (hp : ∀ w, p w ↔ ∃ i ∈ is, decode w = .ok i) : NumberOfWords p is.length :=
  ⟨is.map encode, hnd.map encode_injective, List.length_map _, fun w => by simp [hp, decode_eq_ok_iff]⟩

/-- The commands of one form, for every value of the operand. -/
def commandsOf {α : Type} [FinEnum α] (f : α → Instr) : List Instr := (FinEnum.toList α).map f

@[simp] theorem mem_commandsOf {α : Type} [FinEnum α] {f : α → Instr} {i : Instr} : i ∈ commandsOf f ↔ ∃ x, f x = i := by
  simp [commandsOf]

@[simp] theorem length_commandsOf {α : Type} [FinEnum α] (f : α → Instr) : (commandsOf f).length = FinEnum.card α := by
  simp [commandsOf, FinEnum.toList]

theorem nodup_commandsOf {α : Type} [FinEnum α] {f : α → Instr} (hf : Function.Injective f) : (commandsOf f).Nodup :=
  FinEnum.nodup_toList.map hf

/-- Commands of two forms are different when no two operands give the same command. -/
@[simp] theorem disjoint_commandsOf {α β : Type} [FinEnum α] [FinEnum β] {f : α → Instr} {g : β → Instr} :
    (commandsOf f).Disjoint (commandsOf g) ↔ ∀ x y, f x ≠ g y := by
  simp only [List.Disjoint, mem_commandsOf]
  exact ⟨fun h x y he => h ⟨x, rfl⟩ ⟨y, he.symm⟩, fun h _ ⟨x, hx⟩ ⟨y, hy⟩ => h x y (hx.trans hy.symm)⟩

/-- As many words decode to a command of one form as its operand has values. -/
theorem numberOfWords_of_operand {α : Type} [FinEnum α] {f : α → Instr} (hf : Function.Injective f) :
    NumberOfWords (fun w => ∃ x, decode w = .ok (f x)) (FinEnum.card α) := by
  rw [← length_commandsOf f]
  exact numberOfWords_of_commands (commandsOf f) (nodup_commandsOf hf) (by simp)

/-- The words without a property are all the others of the 65,536. -/
theorem NumberOfWords.compl {p q : Word → Prop} {n : Nat} (h : NumberOfWords p n) (hq : ∀ w, q w ↔ ¬ p w) :
    NumberOfWords q (65536 - n) := by
  obtain ⟨ws, hnd, rfl, hmem⟩ := h
  refine ⟨(ws.toFinsetᶜ).toList, Finset.nodup_toList _, ?_, fun w => ?_⟩
  · rw [Finset.length_toList, Finset.card_compl, List.toFinset_card_of_nodup hnd, ← FinEnum.card_eq_fintypeCard]
    rfl
  · simp [hq, hmem]

/-- There are two modes (R74). -/
theorem exists_mode_iff {p : Mode → Prop} : (∃ m, p m) ↔ p .byte ∨ p .text := by
  refine ⟨fun ⟨m, hm⟩ => ?_, fun h => h.elim (⟨_, ·⟩) (⟨_, ·⟩)⟩
  cases m
  · exact .inl hm
  · exact .inr hm

/-- Every legal command, form by form. -/
def legalCommands : List Instr :=
  [.nop, .crcInit, .crcRead, .frameEnd, .resultRead, .statusRead, .clearErr, .frameStart .byte, .frameStart .text] ++
  (commandsOf .crcByte ++ (commandsOf .frameByte ++ (commandsOf .frameChar ++
    commandsOf (fun x : Nibble × Nibble => .vecRead x.1 x.2))))

theorem mem_legalCommands {i : Instr} : i ∈ legalCommands ↔ i.legal = true := by
  cases i with
  | frameStart m => cases m <;> simp [legalCommands, Instr.legal]
  | _ => simp [legalCommands, Instr.legal]

/-- VEC_READ has 256 operand pairs (R75). -/
theorem card_indexPairs : FinEnum.card (Nibble × Nibble) = 256 := by
  rw [FinEnum.card_eq_fintypeCard, Fintype.card_prod, ← FinEnum.card_eq_fintypeCard, FinEnum.card_bitVec]
  rfl

theorem length_legalCommands : legalCommands.length = 1033 := by
  simp [legalCommands, card_indexPairs]

/-- Commands of one form differ in the operand. -/
theorem crcByte_injective : Function.Injective Instr.crcByte := fun _ _ => Instr.crcByte.inj
theorem frameByte_injective : Function.Injective Instr.frameByte := fun _ _ => Instr.frameByte.inj
theorem frameChar_injective : Function.Injective Instr.frameChar := fun _ _ => Instr.frameChar.inj
theorem vecRead_injective : Function.Injective (fun x : Nibble × Nibble => Instr.vecRead x.1 x.2) :=
  fun _ _ h => Prod.ext_iff.mpr (Instr.vecRead.inj h)

theorem nodup_legalCommands : legalCommands.Nodup := by
  have hb := nodup_commandsOf crcByte_injective
  have hf := nodup_commandsOf frameByte_injective
  have hc := nodup_commandsOf frameChar_injective
  have hv := nodup_commandsOf vecRead_injective
  simp [legalCommands, List.nodup_append', hb, hf, hc, hv]

/-- Settles O5: the words of a form are as many as its operands, and the legal words as many as the legal commands. -/
theorem thereAre1033LegalWords : Obligations.ThereAre1033LegalWords := by
  have hlegal : NumberOfWords (fun w => legalWord w = true) 1033 := by
    rw [← length_legalCommands]
    exact numberOfWords_of_commands _ nodup_legalCommands fun w => by
      simp only [legalWord_iff, mem_legalCommands, and_comm]
  refine ⟨fun i _ => ?_, ?_, numberOfWords_of_operand crcByte_injective, numberOfWords_of_operand frameByte_injective,
    numberOfWords_of_operand frameChar_injective, ?_, hlegal, hlegal.compl (by simp)⟩
  · exact numberOfWords_of_commands [i] (by simp) (by simp)
  · exact numberOfWords_of_commands [.frameStart .byte, .frameStart .text] (by decide) fun w => by
      simp only [exists_mode_iff, List.exists_mem_cons_iff, List.not_mem_nil, false_and, exists_false, or_false]
  · have h := numberOfWords_of_operand vecRead_injective
    rw [card_indexPairs] at h
    simpa only [Prod.exists] using h

end Sys2Proof.Machine
end

section
/-! PROOFS. Decoding and the responses: words written out (30_encoding.md R72, R79), and the one response word of every
command (R78). -/

namespace Sys2Proof.Machine

/-- Settles O6: each word written out is the word of its command, or fails the check that its row makes. -/
theorem writtenOutWordsDecode : Obligations.WrittenOutWordsDecode := by
  refine ⟨?_, ?_, ?_, ?_, ?_, ?_, by decide, by decide⟩ <;> exact decode_eq_ok_iff.mpr (by decide)

/-- Everything a step can do with the word at the port: an illegal word and a refused command record an error and answer 0,
and any other command gives its response (R78, R222). -/
theorem step_command_cases {s : State} {w : Word} {rest : List PortEvent} (h : s.port = .command w :: rest) :
    (∃ why, decode w = .illegal why ∧ step s = .next (raiseOpError .illegal (setPort rest s))) ∨
    (∃ i c, decode w = .ok i ∧ refusalCause i s = some c ∧ step s = .next (raiseOpError c (setPort rest s))) ∨
    (∃ i, decode w = .ok i ∧ refusalCause i s = none ∧
      step s = .next (respond (responseWord i s) (performed i (setPort rest s)))) := by
  have hstep : step s = performWord w (setPort rest s) := takeEvent_command h
  rw [hstep]
  cases hd : decode w with
  | illegal why => exact .inl ⟨why, rfl, performWord_illegal hd _⟩
  | ok i =>
    rw [performWord_ok hd]
    have hc : refusalCause i (setPort rest s) = refusalCause i s := refusalCause_congr i (frameUnit_setPort rest s)
    have hr : responseWord i (setPort rest s) = responseWord i s := by cases i <;> rfl
    obtain ⟨c, hi, he⟩ | ⟨hi, he⟩ := exec_cases i (setPort rest s)
    · exact .inr (.inl ⟨i, c, rfl, hc ▸ hi, he⟩)
    · exact .inr (.inr ⟨i, rfl, hc ▸ hi, hr ▸ he⟩)

/-- Settles O9, by what a step can do with a word. -/
theorem everyCommandReturnsItsResponseWord : Obligations.EveryCommandReturnsItsResponseWord := by
  intro s w rest hp
  obtain ⟨why, hd, hstep⟩ | ⟨i, c, hd, hc, hstep⟩ | ⟨i, hd, hc, hstep⟩ := step_command_cases hp
  · exact ⟨_, 0, hstep, rfl, by simp [hd], by simp [hd], fun _ _ => ⟨rfl, rfl⟩⟩
  · exact ⟨_, 0, hstep, rfl, by simp [hd, hc], fun _ _ _ _ => ⟨rfl, rfl⟩, fun _ _ => ⟨rfl, rfl⟩⟩
  · have hi : ∀ k, decode w = .ok k → i = k := fun k hk => Decoded.ok.inj (hd.symm.trans hk)
    refine ⟨_, responseWord i s, hstep, ?_, fun k hk _ => ?_, fun k c hk hkc => ?_, by simp [hd]⟩
    · rw [respond_resps, (performed_port i _).2, setPort_resps]
    · obtain rfl := hi k hk
      cases i <;> rfl
    · obtain rfl := hi k hk
      cases hc.symm.trans hkc

end Sys2Proof.Machine
end

section
/-! PROOFS. The assembler (30_encoding.md R81, R82): the words of a line, with operands in and out of range, and of every
pseudo-instruction. -/

namespace Sys2Proof.Machine

/-! ### A line and its operands -/

/-- A line with its operands in range gives the words of its commands. -/
theorem assembleLine_of_wf {l : AsmLine} {ws : List Word} (h : l.wf = true) (he : (expandLine l).map encode = ws) :
    assembleLine l = some ws := by
  rw [assembleLine, if_pos h, he]

/-- A line with an operand out of range is an error. -/
theorem assembleLine_of_not_wf {l : AsmLine} (h : ¬ l.wf = true) : assembleLine l = none :=
  if_neg h

/-! The word of each command with an operand: a number in range stands in its field as it is (R81). -/

theorem encode_crcByte_asByte {d : Nat} (h : d < 256) :
    encode (.crcByte (asByte d)) = 0x2000#16 ||| BitVec.ofNat 16 d := by
  rw [encode, asByte, BitVec.setWidth_ofNat_of_le_of_lt (by decide) h]

theorem encode_frameByte_asByte {d : Nat} (h : d < 256) :
    encode (.frameByte (asByte d)) = 0x5000#16 ||| BitVec.ofNat 16 d := by
  rw [encode, asByte, BitVec.setWidth_ofNat_of_le_of_lt (by decide) h]

theorem encode_frameChar_asByte {c : Nat} (h : c < 256) :
    encode (.frameChar (asByte c)) = 0x6000#16 ||| BitVec.ofNat 16 c := by
  rw [encode, asByte, BitVec.setWidth_ofNat_of_le_of_lt (by decide) h]

theorem encode_vecRead_ofNat {i j : Nat} (hi : i < 16) (hj : j < 16) :
    encode (.vecRead (BitVec.ofNat 4 i) (BitVec.ofNat 4 j)) =
      0x9000#16 ||| (BitVec.ofNat 16 i <<< 4) ||| BitVec.ofNat 16 j := by
  rw [encode, BitVec.setWidth_ofNat_of_le_of_lt (by decide) hi, BitVec.setWidth_ofNat_of_le_of_lt (by decide) hj]

/-- Settles O51: three program texts read, then each operand in range and out of range. -/
theorem assemblerGivesTheWordsOfTheSyntax : Obligations.AssemblerGivesTheWordsOfTheSyntax := by
  refine ⟨by decide +kernel, by decide +kernel, by decide +kernel, fun d hd => ?_, fun i j hi hj => ?_, fun d hd => ?_,
    fun i j hij => ?_⟩
  · have hr : byteInRange d = true := decide_eq_true hd
    exact ⟨assembleLine_of_wf hr (congrArg List.singleton (encode_crcByte_asByte hd)),
      assembleLine_of_wf hr (congrArg List.singleton (encode_frameByte_asByte hd)),
      assembleLine_of_wf hr (congrArg List.singleton (encode_frameChar_asByte hd))⟩
  · have hr : (AsmLine.vecRead i j).wf = true := by simp [AsmLine.wf, indexInRange, hi, hj]
    exact assembleLine_of_wf hr (congrArg List.singleton (encode_vecRead_ofNat hi hj))
  · have hr : ¬ byteInRange d = true := by simpa [byteInRange] using hd
    exact ⟨assembleLine_of_not_wf hr, assembleLine_of_not_wf hr, assembleLine_of_not_wf hr⟩
  · refine assembleLine_of_not_wf fun hr => ?_
    simp [AsmLine.wf, indexInRange] at hr
    omega

/-! ### The pseudo-instructions -/

/-- The words of the commands made from operands, when each operand has its word. -/
theorem map_encode_operands {f : Byte → Instr} {g : Nat → Word} {ns : List Nat}
    (h : ∀ n ∈ ns, encode (f (asByte n)) = g n) : ((ns.map asByte).map f).map encode = ns.map g := by
  rw [List.map_map, List.map_map]
  exact List.map_congr_left h

theorem encode_crcComputeCmds {bs : List Nat} (h : ∀ b ∈ bs, b < 256) :
    (crcComputeCmds (bs.map asByte)).map encode =
      [0x1000#16] ++ bs.map (fun b => 0x2000#16 ||| BitVec.ofNat 16 b) ++ [0x3000#16] := by
  rw [crcComputeCmds, List.map_cons, List.map_append, map_encode_operands fun b hb => encode_crcByte_asByte (h b hb)]
  rfl

theorem encode_frameBytesCmds {bs : List Nat} (h : ∀ b ∈ bs, b < 256) :
    (frameBytesCmds (bs.map asByte)).map encode =
      [0x4000#16] ++ bs.map (fun b => 0x5000#16 ||| BitVec.ofNat 16 b) ++ [0x7000#16] := by
  rw [frameBytesCmds, List.map_cons, List.map_append, map_encode_operands fun b hb => encode_frameByte_asByte (h b hb)]
  rfl

theorem encode_classifyBytesCmds {bs : List Nat} (h : ∀ b ∈ bs, b < 256) :
    (classifyBytesCmds (bs.map asByte)).map encode =
      [0x4000#16] ++ bs.map (fun b => 0x5000#16 ||| BitVec.ofNat 16 b) ++ [0x7000#16, 0x8000#16] := by
  rw [classifyBytesCmds, List.map_append, encode_frameBytesCmds h, List.append_assoc]
  rfl

theorem encode_classifyTextCmds {text : List Nat} (h : ∀ c ∈ text, c < 128) :
    (classifyTextCmds (text.map asByte)).map encode =
      [0x4100#16] ++ text.map (fun c => 0x6000#16 ||| BitVec.ofNat 16 c) ++ [0x7000#16, 0x8000#16] := by
  rw [classifyTextCmds, List.map_cons, List.map_append,
    map_encode_operands fun c hc => encode_frameChar_asByte ((h c hc).trans (by decide))]
  rfl

theorem encode_vecFrameCmds {i : Nat} (h : i < 16) :
    (vecFrameCmds (BitVec.ofNat 4 i)).map encode =
      (List.range 15).map (fun j => 0x9000#16 ||| (BitVec.ofNat 16 i <<< 4) ||| BitVec.ofNat 16 j) := by
  rw [vecFrameCmds, List.map_map]
  exact List.map_congr_left fun j hj => encode_vecRead_ofNat h ((List.mem_range.mp hj).trans (by decide))

/-- Settles O52: each expansion from its words, then a text out of range, one program and the empty computation. -/
theorem pseudoInstructionsExpand : Obligations.PseudoInstructionsExpand := by
  refine ⟨fun bs hbs => ?_, fun text ht => ?_, fun text ⟨c, hc, hlarge⟩ => ?_, fun i hi => ?_, by decide +kernel, _, rfl,
    by decide⟩
  · have hr : bs.all byteInRange = true := by simpa [byteInRange] using hbs
    exact ⟨assembleLine_of_wf hr (encode_crcComputeCmds hbs), assembleLine_of_wf hr (encode_frameBytesCmds hbs),
      assembleLine_of_wf hr (encode_classifyBytesCmds hbs), rfl⟩
  · have hr : text.all asciiInRange = true := by simpa [asciiInRange] using ht
    exact assembleLine_of_wf hr (encode_classifyTextCmds ht)
  · refine assembleLine_of_not_wf fun hr => ?_
    have hsmall : c < 128 := of_decide_eq_true (List.all_eq_true.mp hr c hc)
    omega
  · have hr : indexInRange i = true := decide_eq_true hi
    exact assembleLine_of_wf hr (encode_vecFrameCmds hi)

end Sys2Proof.Machine
end

section
/-! PROOFS. The checksum as a function (40_checksum.md R101 to R105): the byte step as eight shifts, and the round trip. -/

namespace Sys2Proof.Machine

/-- The iterations of R101 are the iterates of one shift. -/
theorem crcShifts_eq_iterate (n : Nat) (r : Word) : crcShifts n r = crcShift^[n] r := by
  induction n generalizing r with
  | zero => rfl
  | succ n ih => exact ih (crcShift r)

/-- Settles O19: a fold that ignores the list's elements is the iterate of its step. -/
theorem crcStepIsEightConditionalShifts : Obligations.CrcStepIsEightConditionalShifts := by
  intro r d
  calc crcStep r d
    _ = crcShift^[8] (r ^^^ d.setWidth 16) := crcShifts_eq_iterate 8 _
    _ = (List.range 8).foldl (fun x _ => crcShift x) (r ^^^ d.setWidth 16) := by
        rw [List.foldl_const, List.length_range]

/-- A word is the joining of its halves. -/
@[simp] theorem joinBytes_hiByte_loByte (w : Word) : joinBytes (hiByte w) (loByte w) = w :=
  ((eq_joinBytes_iff w _ _).mpr ⟨rfl, rfl⟩).symm

/-- `verifyChecksum` is false below three bytes (R104). -/
theorem verifyChecksum_of_short {fb : List Byte} (h : fb.length < 3) : verifyChecksum fb = false :=
  if_pos h

/-- A non-empty sequence with two more bytes verifies exactly when those are its checksum, high byte first (R104). -/
theorem verifyChecksum_append_iff {b : List Byte} (hb : 1 ≤ b.length) (h l : Byte) :
    verifyChecksum (b ++ [h, l]) = true ↔ computeChecksum b = (h, l) := by
  have hlen : ¬ b.length + 2 < 3 := by omega
  simp [verifyChecksum, hlen, Prod.ext_iff]

/-- Settles O20: the two bytes appended are the checksum that verifying them computes. -/
theorem checksumRoundTrip : Obligations.ChecksumRoundTrip :=
  ⟨fun _ hb => (verifyChecksum_append_iff hb _ _).mpr rfl, fun _ => verifyChecksum_of_short,
    verifyChecksum_of_short (by decide), by decide⟩

end Sys2Proof.Machine
end

section
/-! PROOFS. The CRC unit over a sequence of command words (40_checksum.md R113): `ACC` steps through the operands of the
CRC_BYTE words, whatever else stands between them. -/

namespace Sys2Proof.Machine

/-! ### The operands of the CRC_BYTE words -/

/-- The operands of a sequence come from its parts in order. -/
theorem crcOperands_append (ws vs : List Word) : crcOperands (ws ++ vs) = crcOperands ws ++ crcOperands vs :=
  List.filterMap_append

/-- A CRC_BYTE word has its operand. -/
theorem crcOperands_of_crcByte {w : Word} {d : Byte} (h : decode w = .ok (.crcByte d)) : crcOperands [w] = [d] := by
  simp [crcOperands, h]

/-- Every other word has none. -/
theorem crcOperands_of_other {w : Word} (h : ∀ d, decode w ≠ .ok (.crcByte d)) : crcOperands [w] = [] := by
  unfold crcOperands
  cases hd : decode w with
  | illegal why => simp [hd]
  | ok i =>
    cases i with
    | crcByte d => exact absurd hd (h d)
    | _ => simp [hd]

/-- The CRC_BYTE words made from bytes have those bytes as operands. -/
theorem crcOperands_map_crcByte (bs : List Byte) : crcOperands ((bs.map .crcByte).map encode) = bs := by
  induction bs with
  | nil => rfl
  | cons d bs ih =>
    calc crcOperands (((d :: bs).map .crcByte).map encode)
      _ = crcOperands [encode (.crcByte d)] ++ crcOperands ((bs.map .crcByte).map encode) := crcOperands_append [_] _
      _ = d :: bs := by rw [crcOperands_of_crcByte (decodeOfEncodeIsTheInstruction _), ih]; rfl

/-! ### `ACC` under commands, words and runs -/

/-- A command that does not write `ACC` leaves it alone, refused or performed (R22). -/
theorem exec_acc {i : Instr} {s t : State} (hi : writesAcc i = false) (he : exec i s = .next t) : t.acc = s.acc := by
  obtain ⟨c, -, rfl⟩ | ⟨-, rfl⟩ := exec_next_cases he
  · rfl
  · exact performed_acc hi s

/-- A word other than CRC_INIT steps `ACC` by its operand, if it is a CRC_BYTE, and leaves it alone if not. -/
theorem performWord_acc {w : Word} {s t : State} (hn : decode w ≠ .ok .crcInit) (hw : performWord w s = .next t) :
    t.acc = (crcOperands [w]).foldl crcStep s.acc := by
  obtain ⟨i, hd, he⟩ | ⟨why, hd, rfl⟩ := performWord_next_cases hw
  · cases i with
    | crcInit => exact absurd hd hn
    | crcByte d =>
      cases he
      rw [crcOperands_of_crcByte hd]
      rfl
    | _ =>
      rw [crcOperands_of_other (by simp [hd])]
      exact exec_acc rfl he
  · rw [crcOperands_of_other (by simp [hd])]
    rfl

/-- The word at the port is performed, and what the host delivers after it remains. -/
theorem step_command {w : Word} {rest : List PortEvent} {s : State} (hp : s.port = .command w :: rest) :
    ∃ t, step s = .next t ∧ performWord w (setPort rest s) = .next t ∧ t.port = rest := by
  obtain ⟨t, ht, hport⟩ := performWord_answers w (setPort rest s)
  exact ⟨t, (takeEvent_command hp).trans ht, ht, hport⟩

/-- A run over words other than CRC_INIT steps `ACC` by the operands of the CRC_BYTE words among them. -/
theorem run_acc (ws : List Word) {s : State} {rest : List PortEvent} (hn : ∀ w ∈ ws, decode w ≠ .ok .crcInit)
    (hp : s.port = commands ws ++ rest) :
    ∃ t, run ws.length s = .next t ∧ t.port = rest ∧ t.acc = (crcOperands ws).foldl crcStep s.acc := by
  induction ws generalizing s with
  | nil => exact ⟨s, run_zero s, hp, rfl⟩
  | cons w ws ih =>
    obtain ⟨hw, hws⟩ := List.forall_mem_cons.mp hn
    obtain ⟨u, hstep, hperf, hport⟩ := step_command hp
    obtain ⟨t, hrun, hrest, hacc⟩ := ih hws hport
    refine ⟨t, (run_succ _ hstep).trans hrun, hrest, ?_⟩
    calc t.acc
      _ = (crcOperands ws).foldl crcStep u.acc := hacc
      _ = (crcOperands ws).foldl crcStep ((crcOperands [w]).foldl crcStep s.acc) := by
          rw [performWord_acc hw hperf, setPort_acc]
      _ = (crcOperands (w :: ws)).foldl crcStep s.acc := by rw [← List.foldl_append, ← crcOperands_append]; rfl

/-- A step with the word of a command at the port performs the command. -/
theorem step_encode {i : Instr} {rest : List PortEvent} {s : State} (hp : s.port = .command (encode i) :: rest) :
    step s = exec i (setPort rest s) :=
  stepPerformsTheDecodedCommand s _ rest i hp (decodeOfEncodeIsTheInstruction i)

/-- From CRC_INIT to CRC_READ, with no other CRC_INIT between them, the response is `crc` of the CRC_BYTE operands (R113). -/
theorem run_crc {s : State} {ws : List Word} {rest : List PortEvent} (hn : ∀ w ∈ ws, decode w ≠ .ok .crcInit)
    (hp : s.port = commands (encode .crcInit :: (ws ++ [encode .crcRead])) ++ rest) :
    ∃ t, run (ws.length + 2) s = .next t ∧ t.port = rest ∧ t.resps.getLast? = some (crc (crcOperands ws)) := by
  have hport : s.port = .command (encode .crcInit) :: (commands ws ++ .command (encode .crcRead) :: rest) := by
    simpa [commands] using hp
  have hinit := step_encode hport
  obtain ⟨u, hrun, hu, hacc⟩ := run_acc ws hn (s := respond 0 { setPort _ s with acc := Config.crcInit }) rfl
  refine ⟨respond u.acc (setPort rest u), ?_, rfl, ?_⟩
  · calc run (ws.length + 2) s
      _ = run (ws.length + 1) _ := run_succ _ hinit
      _ = run 1 u := run_add _ 1 hrun
      _ = .next (respond u.acc (setPort rest u)) := run_succ 0 (step_encode hu)
  · rw [respond_resps, List.getLast?_concat, hacc]
    rfl

/-- Settles O21: the two bytes of the checksum, joined, are the word that CRC_READ returns. -/
theorem crcCommandsComputeTheChecksum : Obligations.CrcCommandsComputeTheChecksum := by
  intro s ws rest hn hp
  rw [computeChecksum, joinBytes_hiByte_loByte]
  exact run_crc hn hp

end Sys2Proof.Machine
end

section
/-! PROOFS. The three commands of the CRC unit (40_checksum.md R110 to R112): their words, their next states and their
examples. -/

namespace Sys2Proof.Machine

/-! ### The illegal words of an operation code (30_encoding.md R76) -/

/-- The words of an operation code are illegal exactly when `bad`, if the legal ones are those that are not. -/
theorem illegalExactlyWhen_of_legalWord {op : Nibble} {bad : Word → Prop}
    (h : ∀ w, opField w = op → (legalWord w = true ↔ ¬ bad w)) : IllegalExactlyWhen op bad := by
  refine fun w hop => ⟨fun hbad s rest hp => ?_, fun hgood => ?_⟩
  · have hill : legalWord w = false := Bool.eq_false_iff.mpr fun hl => (h w hop).mp hl hbad
    exact (takeEvent_command hp).trans (performWord_of_not_legalWord hill _)
  · obtain ⟨i, hd, hi⟩ := legalWord_iff.mp ((h w hop).mpr hgood)
    exact ⟨i, hi, hd⟩

/-- The commands without operand. -/
theorem illegalExactlyWhen_plain {op : Nibble} (h : op ∈ ([0x0, 0x1, 0x3, 0x7, 0x8, 0xA, 0xB] : List Nibble)) :
    IllegalExactlyWhen op plainBad := by
  have hothers : op ∉ ([0x2, 0x5, 0x6, 0x9] : List Nibble) ∧ op ≠ 0x4 := by
    revert op
    decide
  refine illegalExactlyWhen_of_legalWord fun w hop => ?_
  rw [legalWord_iff_fields, LegalFields, hop]
  simp only [h, hothers, plainBad, true_and, false_and, or_false, not_or, not_not]

/-- The commands whose operand is all of `DATA`. -/
theorem illegalExactlyWhen_data {op : Nibble} (h : op ∈ ([0x2, 0x5, 0x6, 0x9] : List Nibble)) :
    IllegalExactlyWhen op dataBad := by
  have hothers : op ∉ ([0x0, 0x1, 0x3, 0x7, 0x8, 0xA, 0xB] : List Nibble) ∧ op ≠ 0x4 := by
    revert op
    decide
  refine illegalExactlyWhen_of_legalWord fun w hop => ?_
  rw [legalWord_iff_fields, LegalFields, hop]
  simp only [h, hothers, dataBad, true_and, false_and, false_or, or_false, not_not]

/-! ### The commands -/

/-- Settles O16: from reset `ACC` already holds the value written (R37). -/
theorem crcInitSetsTheAccumulator : Obligations.CrcInitSetsTheAccumulator :=
  ⟨rfl, illegalExactlyWhen_plain (by decide), fun _ => rfl, rfl⟩

/-- Settles O17: the encoding and the next state are the definitions', and the examples are evaluated. -/
theorem crcByteAccumulatesOneByte : Obligations.CrcByteAccumulatesOneByte :=
  ⟨fun _ => rfl, illegalExactlyWhen_data (by decide), fun _ _ => rfl, by decide, by decide, by decide⟩

/-- CRC_INIT and CRC_READ with nothing between them: the responses are 0 and the initial value (R112). -/
theorem run_crcInit_crcRead {s : State} (hp : s.port = issued [.crcInit, .crcRead]) :
    run 2 s = .next (respond Config.crcInit (setPort [] (respond 0 { s with acc := Config.crcInit }))) := by
  calc run 2 s
    _ = run 1 (respond 0 { setPort (issued [.crcRead]) s with acc := Config.crcInit }) := run_succ 1 (step_encode hp)
    _ = _ := run_succ 0 (step_encode (i := .crcRead) (rest := []) rfl)

/-- The commands of `crc.compute` end with `crc` of the bytes as the last response (30_encoding.md R82). -/
theorem run_crcComputeCmds (bs : List Byte) (s : State) :
    ∃ t, run (bs.length + 2) { s with port := issued (crcComputeCmds bs) } = .next t ∧
      t.resps.getLast? = some (crc bs) := by
  have hport : issued (crcComputeCmds bs) =
      commands (encode .crcInit :: ((bs.map .crcByte).map encode ++ [encode .crcRead])) ++ [] := by
    simp [issued, crcComputeCmds]
  obtain ⟨t, hrun, -, hresp⟩ := run_crc (s := { s with port := issued (crcComputeCmds bs) })
    (by simp [decode_eq_ok_iff, encode_injective.eq_iff]) hport
  exact ⟨t, by simpa using hrun, by rw [hresp, crcOperands_map_crcByte]⟩

/-- Settles O18: the two runs are those of no byte and of the twelve bytes. -/
theorem crcReadReturnsTheAccumulator : Obligations.CrcReadReturnsTheAccumulator := by
  refine ⟨rfl, illegalExactlyWhen_plain (by decide), fun _ => rfl, fun s => joinBytes_hiByte_loByte s.acc, fun s => ?_, ?_⟩
  · exact ⟨_, run_crcInit_crcRead rfl, by simp [Config.crcInit]⟩
  · obtain ⟨t, hrun, hresp⟩ := run_crcComputeCmds
      [0x5A, 0x02, 0x7E, 0x00, 0x04, 0x08, 0xF1, 0x03, 0x02, 0x01, 0x80, 0xA5] State.reset
    exact ⟨t, hrun, hresp.trans (by decide +kernel)⟩

end Sys2Proof.Machine
end

section
/-! PROOFS. Runs over sequences of words: they end (41_frame.md R153), and the frame unit depends on the words since
FRAME_START alone (R132). -/

namespace Sys2Proof.Machine

/-- Every sequence of words runs to its end, and what the host delivers after it remains. -/
theorem run_words (ws : List Word) {s : State} {rest : List PortEvent} (hp : s.port = commands ws ++ rest) :
    ∃ t, run ws.length s = .next t ∧ t.port = rest := by
  induction ws generalizing s with
  | nil => exact ⟨s, run_zero s, hp⟩
  | cons w ws ih =>
    obtain ⟨u, hstep, -, hport⟩ := step_command hp
    obtain ⟨t, hrun, hrest⟩ := ih hport
    exact ⟨t, (run_succ _ hstep).trans hrun, hrest⟩

/-- Settles O8: every word answers a next state with one response, and so every sequence of words runs to its end. -/
theorem everyWordIsPerformedInEveryState : Obligations.EveryWordIsPerformedInEveryState := by
  refine ⟨fun s w rest hp => ?_, fun s ws => run_words ws (by simp)⟩
  obtain ⟨t, r, hstep, hresps, -⟩ := everyCommandReturnsItsResponseWord s w rest hp
  obtain ⟨u, hstep', -, hport⟩ := step_command hp
  obtain rfl : u = t := Host.Outcome.next.inj (hstep'.symm.trans hstep)
  exact ⟨u, r, hstep, hport, hresps⟩

/-- Two runs over the same words lead from equal frame units to equal frame units: both are as the run over the frame words
alone. -/
theorem run_frameUnit_congr (ws : List Word) {s s' : State} (h : frameUnit s = frameUnit s') (hp : s.port = commands ws)
    (hp' : s'.port = commands ws) :
    ∃ t t', run ws.length s = .next t ∧ run ws.length s' = .next t' ∧ frameUnit t = frameUnit t' := by
  obtain ⟨t, v, hrun, hv, htv⟩ :=
    run_frameWords ws (s := s) (s' := setPort (commands (ws.filter isFrameWord)) s) rfl hp rfl
  obtain ⟨t', v', hrun', hv', htv'⟩ :=
    run_frameWords ws (s' := setPort (commands (ws.filter isFrameWord)) s) h.symm hp' rfl
  obtain rfl : v = v' := Host.Outcome.next.inj (hv.symm.trans hv')
  exact ⟨t, t', hrun, hrun', htv.trans htv'.symm⟩

/-- The frame unit of a frame just opened has no trace of the state before (R131). -/
theorem openFrame_frameUnit (m : Mode) (s s' : State) : frameUnit (openFrame m s) = frameUnit (openFrame m s') := rfl

/-- Settles O37: FRAME_START leads to equal frame units, and the words after it keep them equal. -/
theorem earlierStateDoesNotReachAFrame : Obligations.EarlierStateDoesNotReachAFrame := by
  intro s s' m ws
  have hopen : ∀ u : State, run (ws.length + 1) { u with port := commands (encode (.frameStart m) :: ws) } =
      run ws.length (respond 0 (openFrame m (setPort (commands ws) u))) :=
    fun u => run_succ _ (step_encode (i := .frameStart m) (rest := commands ws) rfl)
  rw [hopen s, hopen s']
  exact run_frameUnit_congr ws (s := respond 0 (openFrame m (setPort (commands ws) s)))
    (s' := respond 0 (openFrame m (setPort (commands ws) s'))) (openFrame_frameUnit m s s') rfl rfl

end Sys2Proof.Machine
end

section
/-! PROOFS. A whole frame at the port: FRAME_START, the bytes or characters of its mode, FRAME_END and RESULT_READ, as one
rule for each run (41_frame.md R131 to R150). -/

namespace Sys2Proof.Machine

/-! ### Refused and performed commands -/

/-- A command with a cause against it is refused with it (60_exceptions.md R222). -/
theorem exec_of_refused {i : Instr} {s : State} {c : ErrCause} (h : refusalCause i s = some c) :
    exec i s = .next (refusedWith c s) := by
  obtain ⟨c', hc', he⟩ | ⟨hc', -⟩ := exec_cases i s
  · obtain rfl := Option.some.inj (h.symm.trans hc')
    exact he
  · simp [h] at hc'

/-- A command with no cause against it is performed and gives its response. -/
theorem exec_of_performed {i : Instr} {s : State} (h : refusalCause i s = none) :
    exec i s = .next (respond (responseWord i s) (performed i s)) := by
  obtain ⟨c, hc, -⟩ | ⟨-, he⟩ := exec_cases i s
  · simp [h] at hc
  · exact he

/-- A performed command does not look at the outside. -/
theorem performed_setOutside (i : Instr) (p : List PortEvent) (q : List Word) (s : State) :
    performed i (setOutside p q s) = setOutside p q (performed i s) := by
  cases i with
  | frameChar c => exact takeChar_setOutside c p q s
  | frameEnd => exact closeFrame_setOutside p q s
  | _ => rfl

/-- The step at the word of a command that is not refused. -/
theorem step_performed {i : Instr} {s : State} {rest : List PortEvent} (hp : s.port = .command (encode i) :: rest)
    (hc : refusalCause i s = none) :
    step s = .next (setOutside rest (s.resps ++ [responseWord i s]) (performed i s)) := by
  have hc' : refusalCause i (setPort rest s) = none := (refusalCause_congr i (frameUnit_setPort rest s)).trans hc
  have hr : responseWord i (setPort rest s) = responseWord i s := by cases i <;> rfl
  rw [step_encode hp, exec_of_performed hc', hr, setPort_eq, performed_setOutside]
  rfl

/-! ### The input of a frame, in either mode -/

/-- The command that delivers one byte or character of a frame: FRAME_BYTE or FRAME_CHAR. -/
def deliver : Mode → Byte → Instr
  | .byte => .frameByte
  | .text => .frameChar

/-- It is none of the commands that write other registers than the frame's bytes and text. -/
theorem deliver_others (m : Mode) (d : Byte) :
    writesAcc (deliver m d) = false ∧ (∀ k, deliver m d ≠ .frameStart k) ∧ deliver m d ≠ .frameEnd ∧
    deliver m d ≠ .clearErr := by
  cases m <;> simp [deliver, writesAcc]

section
variable {m : Mode} {s : State}

/-- Input is refused when no frame is open, and in a frame of the other mode (R135, R137, 60_exceptions.md R225). -/
theorem refusalCause_deliver_closed (hp : s.phase ≠ .collect) (d : Byte) :
    refusalCause (deliver m d) s = some .sequence := by
  cases m <;> exact if_pos hp

theorem refusalCause_deliver_otherMode (hp : s.phase = .collect) (hm : s.mode ≠ m) (d : Byte) :
    refusalCause (deliver m d) s = some .mode := by
  cases m <;> cases hs : s.mode <;> simp_all [deliver, refusalCause]

theorem refusalCause_deliver_open (hp : s.phase = .collect) (hm : s.mode = m) (d : Byte) :
    refusalCause (deliver m d) s = none := by
  cases m <;> simp [deliver, refusalCause, hp, hm]

end

/-- What the input `ds` does to an open frame: the byte pushes, or the characters of the hex front end. -/
def takeInput (m : Mode) (ds : List Byte) (s : State) : State :=
  ds.foldl (fun u d => performed (deliver m d) u) s

@[simp] theorem takeInput_nil (m : Mode) (s : State) : takeInput m [] s = s := rfl
@[simp] theorem takeInput_cons (m : Mode) (d : Byte) (ds : List Byte) (s : State) :
    takeInput m (d :: ds) s = takeInput m ds (performed (deliver m d) s) := rfl

/-- Input touches only the frame's registers, and neither MODE nor PHASE. -/
theorem takeInput_frame (m : Mode) (ds : List Byte) (s : State) :
    (takeInput m ds s).acc = s.acc ∧ (takeInput m ds s).mode = s.mode ∧ (takeInput m ds s).phase = s.phase ∧
    (takeInput m ds s).opErr = s.opErr ∧ (takeInput m ds s).errCause = s.errCause := by
  induction ds generalizing s with
  | nil => exact ⟨rfl, rfl, rfl, rfl, rfl⟩
  | cons d ds ih =>
    obtain ⟨hw, hstart, hend, hclear⟩ := deliver_others m d
    have hacc := performed_acc hw s
    have hmode := performed_mode hstart s
    obtain ⟨-, hphase⟩ := performed_res_phase hstart hend s
    obtain ⟨hop, hcause⟩ := performed_record hclear s
    simpa only [takeInput_cons, hacc, hmode, hphase, hop, hcause] using ih (performed (deliver m d) s)

/-- Input does not look at the outside. -/
theorem takeInput_setOutside (m : Mode) (ds : List Byte) (p : List PortEvent) (q : List Word) (s : State) :
    takeInput m ds (setOutside p q s) = setOutside p q (takeInput m ds s) := by
  induction ds generalizing s with
  | nil => rfl
  | cons d ds ih => rw [takeInput_cons, performed_setOutside, ih, takeInput_cons]

/-- An open frame takes the input of its mode, and answers 0 to it (R135, R137). -/
theorem step_deliver {m : Mode} {d : Byte} {s : State} {rest : List PortEvent} (hphase : s.phase = .collect)
    (hmode : s.mode = m) (hp : s.port = .command (encode (deliver m d)) :: rest) :
    step s = .next (setOutside rest (s.resps ++ [0]) (takeInput m [d] s)) := by
  have hr : responseWord (deliver m d) s = 0 := by cases m <;> rfl
  rw [step_performed hp (refusalCause_deliver_open hphase hmode d), hr, takeInput_cons, takeInput_nil]

/-- A run over the input of an open frame. -/
theorem run_deliver {m : Mode} (ds : List Byte) {s : State} {rest : List PortEvent} (hphase : s.phase = .collect)
    (hmode : s.mode = m) (hp : s.port = issued (ds.map (deliver m)) ++ rest) :
    run ds.length s = .next (setOutside rest (s.resps ++ List.replicate ds.length 0) (takeInput m ds s)) := by
  induction ds generalizing s with
  | nil =>
    have hp' : s.port = rest := hp
    simp [← hp']
  | cons d ds ih =>
    have hstep := step_deliver (d := d) (rest := issued (ds.map (deliver m)) ++ rest) hphase hmode hp
    obtain ⟨-, hmode', hphase', -⟩ := takeInput_frame m [d] s
    calc run (ds.length + 1) s
      _ = run ds.length _ := run_succ _ hstep
      _ = _ := ih (hphase'.trans hphase) (hmode'.trans hmode) rfl
      _ = _ := by
        rw [takeInput_setOutside, setOutside_twice, setOutside_resps, List.append_assoc, List.length_cons,
          List.replicate_succ]
        rfl

/-! ### A whole frame at the port -/

/-- The block after FRAME_START and the input `ds`. -/
def deliveredFrame (m : Mode) (ds : List Byte) (s : State) : State := takeInput m ds (openFrame m s)

/-- The block after FRAME_START, the input `ds` and FRAME_END. -/
def finishedFrame (m : Mode) (ds : List Byte) (s : State) : State := closeFrame (deliveredFrame m ds s)

/-- A run over FRAME_START and the input of its mode. -/
theorem run_deliveredFrame {m : Mode} {ds : List Byte} {s : State} {rest : List PortEvent}
    (hp : s.port = issued (.frameStart m :: ds.map (deliver m)) ++ rest) :
    run (ds.length + 1) s =
      .next (setOutside rest (s.resps ++ List.replicate (ds.length + 1) 0) (deliveredFrame m ds s)) := by
  have hstep := step_performed (i := .frameStart m) (rest := issued (ds.map (deliver m)) ++ rest) hp rfl
  calc run (ds.length + 1) s
    _ = run ds.length _ := run_succ _ hstep
    _ = _ := run_deliver (m := m) ds rfl rfl rfl
    _ = _ := by
      rw [takeInput_setOutside, setOutside_twice, setOutside_resps, List.append_assoc, List.replicate_succ]
      rfl

/-- A run over a whole frame: FRAME_START, the input of its mode and FRAME_END. -/
theorem run_finishedFrame {m : Mode} {ds : List Byte} {s : State} {rest : List PortEvent}
    (hp : s.port = issued (.frameStart m :: (ds.map (deliver m) ++ [.frameEnd])) ++ rest) :
    run (ds.length + 2) s =
      .next (setOutside rest (s.resps ++ List.replicate (ds.length + 2) 0) (finishedFrame m ds s)) := by
  have hrun := run_deliveredFrame (m := m) (ds := ds) (rest := .command (encode .frameEnd) :: rest)
    (hp.trans (by simp [issued, commands]))
  obtain ⟨-, -, hphase, -⟩ := takeInput_frame m ds (openFrame m s)
  have hc : refusalCause .frameEnd (deliveredFrame m ds s) = none := if_neg (not_not.mpr hphase)
  calc run (ds.length + 2) s
    _ = run 1 _ := run_add (ds.length + 1) 1 hrun
    _ = _ := run_succ 0 (step_performed rfl hc)
    _ = _ := by
      rw [run_zero, performed_setOutside, setOutside_twice, setOutside_resps, List.append_assoc,
        List.replicate_succ' (n := ds.length + 1)]
      rfl

/-- A run over a whole frame and RESULT_READ. -/
theorem run_classifiedFrame {m : Mode} {ds : List Byte} {s : State} {rest : List PortEvent}
    (hp : s.port = issued (.frameStart m :: (ds.map (deliver m) ++ [.frameEnd, .resultRead])) ++ rest) :
    run (ds.length + 3) s = .next (setOutside rest
      (s.resps ++ List.replicate (ds.length + 2) 0 ++ [(finishedFrame m ds s).res.word]) (finishedFrame m ds s)) := by
  have hrun := run_finishedFrame (m := m) (ds := ds) (rest := .command (encode .resultRead) :: rest)
    (hp.trans (by simp [issued, commands]))
  exact (run_add (ds.length + 2) 1 hrun).trans (run_succ 0 (step_performed (i := .resultRead) rfl rfl))

end Sys2Proof.Machine
end

section
/-! PROOFS. The commands of the frame unit, one by one (41_frame.md R131, R133, R135, R137, R138, R145, R150). -/

namespace Sys2Proof.Machine

/-! ### FRAME_START -/

/-- The words of FRAME_START. -/
theorem illegalExactlyWhen_start : IllegalExactlyWhen 0x4 startBad := by
  refine illegalExactlyWhen_of_legalWord fun w hop => ?_
  rw [legalWord_iff_fields, LegalFields, hop]
  simp [startBad]

/-- Settles O22: every clause but the illegal words is the definitions' own. -/
theorem frameStartOpensAFrame : Obligations.FrameStartOpensAFrame :=
  ⟨rfl, rfl, illegalExactlyWhen_start, fun _ _ => rfl, by decide, _, rfl, by decide⟩

/-! ### The byte push and FRAME_BYTE -/

/-- Settles O23: each register by whether the old `LEN` meets its check. -/
theorem bytePushMovesTheDelayLine : Obligations.BytePushMovesTheDelayLine := by
  refine fun d s => ⟨_, rfl, rfl, fun h => if_pos h, fun h => if_neg h.not_ge, fun h => ?_, fun h => if_neg h.not_ge,
    fun h => if_pos h, fun h => if_neg h, fun h => if_pos h, fun h => if_neg h, fun h => if_pos h, fun h => if_neg h,
    nextLen_toNat s.len⟩
  rw [push_hdrOk, if_pos h, Bool.and_eq_true, beq_iff_eq, Config.header, List.getD_eq_getElem]

/-- A push at the saturated `LEN` keeps the delay line moving (R135). -/
theorem push_saturated (d : Byte) {s : State} (h : s.len = 15) :
    (push d s).len = 15 ∧ (push d s).h1 = s.h0 ∧ (push d s).h0 = d ∧ (push d s).fcrc = crcStep s.fcrc s.h1 := by
  have hl : s.len.toNat = 15 := congrArg BitVec.toNat h
  refine ⟨?_, rfl, rfl, if_pos (by omega)⟩
  rw [push_len, h]
  rfl

/-- Settles O25: the refusals by their causes, the push as `performed`, and the example as a delivered frame. -/
theorem frameByteDeliversOneByte : Obligations.FrameByteDeliversOneByte := by
  refine ⟨fun _ => rfl, illegalExactlyWhen_data (by decide), fun d s hp => ?_, fun d s hp hm => ?_, fun d s hp hm => ?_,
    fun d s => push_saturated d, _, run_deliveredFrame (m := .byte) (ds := [0x5A]) (rest := []) rfl, by decide⟩
  · exact exec_of_refused (refusalCause_deliver_closed (m := .byte) hp d)
  · exact exec_of_refused (refusalCause_deliver_otherMode (m := .byte) hp (by simp [hm]) d)
  · exact exec_of_performed (refusalCause_deliver_open (m := .byte) hp hm d)

/-! ### Characters and FRAME_CHAR -/

/-- The value of a digit, from the code of the first digit of its class. -/
theorem digit_setWidth {c b : Byte} (h : b.toNat ≤ c.toNat) :
    (c - b).setWidth 4 = BitVec.ofNat 4 (c.toNat - b.toNat) := by
  apply BitVec.eq_of_toNat_eq
  rw [BitVec.toNat_setWidth, BitVec.toNat_sub_of_le h, BitVec.toNat_ofNat]

/-- Settles O26, class by class. -/
theorem characterClasses : Obligations.CharacterClasses := by
  refine ⟨rfl, fun c => ⟨fun h h' => ?_, fun h h' => ?_, fun h h' => ?_, fun h => ?_,
    (upperHexDigit_upperCase c).symm⟩⟩
  · rw [hexval, if_pos ⟨h, h'⟩]
    exact congrArg some (digit_setWidth h)
  · rw [hexval, if_neg (by omega), if_pos ⟨h, h'⟩]
    exact congrArg some (digit_setWidth (b := 0x37#8) (Nat.le_trans (by decide) h))
  · rw [hexval, if_neg (by omega), if_neg (by omega), if_pos ⟨h, h'⟩]
    exact congrArg some (digit_setWidth (b := 0x57#8) (Nat.le_trans (by decide) h))
  · rw [hexval, if_neg (by omega), if_neg (by omega), if_neg (by omega)]

/-- After a decode error any character is ignored, and a space always is (R137). -/
theorem takeChar_failed {s : State} (c : Byte) (hd : s.decErr ≠ .none) : takeChar c s = s :=
  if_pos hd

theorem takeChar_space {s : State} {c : Byte} (hc : c = 0x20#8) : takeChar c s = s := by
  simp [takeChar, spaceCode, hc]

/-- A hex character is its digit. -/
theorem takeChar_digit {s : State} {c : Byte} {v : Nibble} (hd : s.decErr = .none) (hv : hexval c = some v) :
    takeChar c s = takeDigit v s := by
  have hc : c ≠ spaceCode := by
    rintro rfl
    cases hv
  simp [takeChar, hd, hc, hv]

/-- Any other character fails the decoding. -/
theorem takeChar_nonHex {s : State} {c : Byte} (hd : s.decErr = .none) (hc : c ≠ 0x20#8) (hv : hexval c = none) :
    takeChar c s = { s with decErr := .nonHex } := by
  simp [takeChar, spaceCode, hd, hc, hv]

/-- A character of an open TEXT frame is taken, and the response is 0. -/
theorem exec_frameChar {s u : State} {c : Byte} (hp : s.phase = .collect) (hm : s.mode = .text) (hu : takeChar c s = u) :
    exec (.frameChar c) s = .next (respond 0 u) := by
  have hc : refusalCause (.frameChar c) s = none := refusalCause_deliver_open (m := .text) hp hm c
  rw [exec_of_performed hc, ← hu]
  rfl

/-- Settles O27: the refusals by their causes, each class of character by `takeChar`, and the examples as delivered
frames. -/
theorem frameCharDecodesOneCharacter : Obligations.FrameCharDecodesOneCharacter := by
  refine ⟨fun _ => rfl, illegalExactlyWhen_data (by decide), fun c s hp => ?_, fun c s hp hm => ?_,
    fun c s hp hm => ⟨fun hd => ?_, fun hc => ?_, fun v hd hv hn => ?_, fun v hd hv hn => ?_, fun hd hc hv => ?_⟩,
    ⟨_, run_deliveredFrame (m := .text) (ds := [0x35, 0x61]) (rest := []) rfl, by decide⟩,
    ⟨_, run_deliveredFrame (m := .text) (ds := [0x35, 0x20, 0x41]) (rest := []) rfl, by decide⟩⟩
  · exact exec_of_refused (refusalCause_deliver_closed (m := .text) hp c)
  · exact exec_of_refused (refusalCause_deliver_otherMode (m := .text) hp (by simp [hm]) c)
  · exact exec_frameChar hp hm (takeChar_failed c hd)
  · exact exec_frameChar hp hm (takeChar_space hc)
  · exact exec_frameChar hp hm ((takeChar_digit hd hv).trans (if_neg (by simp [hn])))
  · exact exec_frameChar hp hm ((takeChar_digit hd hv).trans (if_pos hn))
  · exact exec_frameChar hp hm (takeChar_nonHex hd hc hv)

/-! ### FRAME_END and RESULT_READ -/

/-- FRAME_END of an open frame, by what the ODD_LENGTH check leaves. -/
theorem exec_frameEnd {s u : State} (hp : s.phase = .collect) (hu : finishText s = u) :
    exec .frameEnd s = .next (respond 0 { u with res := frameResult u, phase := .done }) := by
  have hc : refusalCause .frameEnd s = none := if_neg (not_not.mpr hp)
  rw [exec_of_performed hc, ← hu]
  rfl

/-- Settles O29: the refusal by its cause, the two branches of the ODD_LENGTH check, and the examples as finished frames. -/
theorem frameEndClosesTheFrame : Obligations.FrameEndClosesTheFrame := by
  refine ⟨rfl, illegalExactlyWhen_plain (by decide), fun s hp => exec_of_refused (if_pos hp),
    fun s hp hm hd hn => exec_frameEnd hp (if_pos ⟨hm, hd, hn⟩), fun s hp h => exec_frameEnd hp (if_neg ?_),
    ⟨_, run_finishedFrame (m := .byte) (ds := vector 0) (rest := []) rfl, by decide +kernel⟩,
    ⟨_, run_finishedFrame (m := .byte) (ds := []) (rest := []) rfl, by decide⟩⟩
  rintro ⟨hm, hd, hn⟩
  simp [hm, hd, hn] at h

/-- Settles O32: RESULT_READ answers RES, which the invariant holds at 0 before a frame has finished. -/
theorem resultReadReturnsTheResult : Obligations.ResultReadReturnsTheResult := by
  refine ⟨rfl, illegalExactlyWhen_plain (by decide), fun _ => rfl, fun s h hp => ?_, ?_⟩
  · have hword : s.res.word = 0x0000#16 := by
      rw [h.noResultYet hp]
      decide
    have hread : exec .resultRead s = .next (respond s.res.word s) := rfl
    rw [hread, hword]
    rfl
  · exact ⟨_, run_classifiedFrame (m := .byte) (ds := vector 0) (rest := []) rfl, by decide +kernel⟩

end Sys2Proof.Machine
end

section
/-! PROOFS. The result of a frame, step by step (41_frame.md R146), and the host's reading of it (R151). -/

namespace Sys2Proof.Machine

/-! ### The steps of the result function (R146) -/

/-- The flags `v` and `hdr` of R146. -/
theorem frameVerify_iff (s : State) : frameVerify s = true ↔ 3 ≤ s.len.toNat ∧ s.fcrc = joinBytes s.h1 s.h0 := by
  simp [frameVerify]

theorem frameHeader_iff (s : State) : frameHeader s = true ↔ s.hdrOk = true ∧ 6 ≤ s.len.toNat := by
  simp [frameHeader]

section
variable {s : State}

/-- The result by the step that decides it. -/
theorem frameResult_decodeError (hd : s.decErr ≠ .none) : frameResult s =
    { outcome := .decodeError, chkValid := false, cmd := .unknown, verify := false, decDetail := s.decErr,
      hdrMatch := false } :=
  if_pos hd

theorem frameResult_lengthError (hd : s.decErr = .none) (hl : s.len.toNat < 14) : frameResult s =
    { outcome := .lengthError, chkValid := false, cmd := .unknown, verify := frameVerify s, decDetail := .none,
      hdrMatch := frameHeader s } := by
  simp [frameResult, hd, hl]

theorem frameResult_checksumError (hd : s.decErr = .none) (hl : 14 ≤ s.len.toNat) (hv : frameVerify s = false) :
    frameResult s =
    { outcome := .checksumError, chkValid := false, cmd := .unknown, verify := false, decDetail := .none,
      hdrMatch := frameHeader s } := by
  simp [frameResult, hd, hl.not_gt, hv]

theorem frameResult_recognized (hd : s.decErr = .none) (hl : 14 ≤ s.len.toNat) (hv : frameVerify s = true)
    (hk : matchCommand (frameHeader s) s.t6 s.t7 s.t8 ≠ .unknown) : frameResult s =
    { outcome := .recognized, chkValid := true, cmd := matchCommand (frameHeader s) s.t6 s.t7 s.t8, verify := true,
      decDetail := .none, hdrMatch := frameHeader s } := by
  simp [frameResult, hd, hl.not_gt, hv, hk]

theorem frameResult_unrecognized (hd : s.decErr = .none) (hl : 14 ≤ s.len.toNat) (hv : frameVerify s = true)
    (hk : matchCommand (frameHeader s) s.t6 s.t7 s.t8 = .unknown) : frameResult s =
    { outcome := .unrecognized, chkValid := true, cmd := .unknown, verify := true, decDetail := .none,
      hdrMatch := frameHeader s } := by
  simp [frameResult, hd, hl.not_gt, hv, hk]

/-- The step of a decoded frame that decides its result. -/
theorem decidingStep_cases (s : State) :
    s.len.toNat < 14 ∨
    (14 ≤ s.len.toNat ∧ frameVerify s = false) ∨
    (14 ≤ s.len.toNat ∧ frameVerify s = true ∧ matchCommand (frameHeader s) s.t6 s.t7 s.t8 ≠ .unknown) ∨
    (14 ≤ s.len.toNat ∧ frameVerify s = true ∧ matchCommand (frameHeader s) s.t6 s.t7 s.t8 = .unknown) := by
  obtain hl | hl := Nat.lt_or_ge s.len.toNat 14
  · exact .inl hl
  cases hv : frameVerify s with
  | false => exact .inr (.inl ⟨hl, rfl⟩)
  | true =>
    by_cases hk : matchCommand (frameHeader s) s.t6 s.t7 s.t8 = .unknown
    · exact .inr (.inr (.inr ⟨hl, rfl, hk⟩))
    · exact .inr (.inr (.inl ⟨hl, rfl, hk⟩))

/-- A decoded frame has VERIFY from its delay line, and another outcome than DECODE_ERROR. -/
theorem frameResult_of_decoded (hd : s.decErr = .none) :
    (frameResult s).verify = frameVerify s ∧ (frameResult s).outcome ≠ .decodeError := by
  obtain hl | ⟨hl, hv⟩ | ⟨hl, hv, hk⟩ | ⟨hl, hv, hk⟩ := decidingStep_cases s
  · simp [frameResult_lengthError hd hl]
  · simp [frameResult_checksumError hd hl hv, hv]
  · simp [frameResult_recognized hd hl hv hk, hv]
  · simp [frameResult_unrecognized hd hl hv hk, hv]

/-- A frame whose outcome is not DECODE_ERROR has been decoded. -/
theorem decErr_of_outcome (h : (frameResult s).outcome ≠ .decodeError) : s.decErr = .none := by
  by_contra hd
  simp [frameResult_decodeError hd] at h

end

/-- Settles O30: the two flags are `frameVerify` and `frameHeader`, and each step has its equation. -/
theorem frameResultFollowsTheSteps : Obligations.FrameResultFollowsTheSteps := by
  refine ⟨fun _ => rfl, fun s => ⟨frameVerify s, frameHeader s, frameVerify_iff s, frameHeader_iff s, ?_⟩⟩
  exact ⟨frameResult_decodeError, frameResult_lengthError, frameResult_checksumError, frameResult_recognized,
    frameResult_unrecognized⟩

/-! ### The host's reading of the result (R151) -/

/-- The host reads every field of a RES word back. -/
theorem parseResult_word (u : UnrecognizedMessage) (r : Result) (text : List Byte) :
    parseResult u r.word text = (messageOfOutcome u r.outcome.code.toNat r.decDetail.code.toNat).map fun message =>
      { checksumValid := r.chkValid, commandType := r.cmd, commandName := commandName r.cmd.code.toNat,
        errorMessage := message, originalHex := text } := by
  obtain ⟨ho, hv, hk, -, hd, -⟩ := r.word_fields
  simp only [parseResult, ho, hv, hk, hd, BitVec.toNat_setWidth, Nat.mod_eq_of_lt r.outcome.code_lt,
    Nat.mod_eq_of_lt r.cmd.code_lt, Nat.mod_eq_of_lt r.decDetail.code_lt, commandOfCode_code]
  cases messageOfOutcome u r.outcome.code.toNat r.decDetail.code.toNat <;> rfl

/-- Settles O53: the names are R176's, and the message is that of the outcome. -/
theorem hostReadsTheResultWord : Obligations.HostReadsTheResultWord := by
  refine ⟨rfl, rfl, fun k hk hk' => by interval_cases k <;> rfl, fun r text hr => ?_⟩
  rw [parseResult_word]
  cases ho : r.outcome with
  | none => exact absurd ho hr
  | _ => rfl

end Sys2Proof.Machine
end

section
/-! PROOFS. The delay line (41_frame.md R134), and that a BYTE frame is classified as its bytes are (R136, R149). -/

namespace Sys2Proof.Machine

/-! ### The delay line (R134) -/

/-- Each push appends its byte to what the registers hold. -/
theorem foldl_push_holds (bs : List Byte) {cs : List Byte} {s : State} (h : FrameHolds cs s) :
    FrameHolds (cs ++ bs) (bs.foldl (fun u d => push d u) s) := by
  induction bs generalizing cs s with
  | nil => simpa using h
  | cons d bs ih => simpa using ih (push_holds d h)

/-- Settles O24: FRAME_START holds no byte, each push appends one, and the comparison is `verifyChecksum` of the bytes
held. -/
theorem delayLineHoldsTheFrame : Obligations.DelayLineHoldsTheFrame := by
  intro m s bs
  have h : FrameHolds bs (bs.foldl (fun u d => push d u) (openFrame m s)) := foldl_push_holds bs (open_holds m s)
  exact ⟨h, verify_holds h⟩

/-! ### The result of a frame is the classification of its bytes (R130, R146) -/

/-- The command of a verified frame with the bytes `bs` (step 5 of R130). -/
def commandOfBytes (bs : List Byte) : CommandType :=
  if bs.take 6 = Config.header then lookupTriple (bs.getD 6 0, bs.getD 7 0, bs.getD 8 0) else .unknown

/-- The matcher reads the command of the bytes from the frame registers. -/
theorem matchCommand_holds {bs : List Byte} {s : State} (h : FrameHolds bs s) (hl : 9 ≤ bs.length) :
    matchCommand (frameHeader s) s.t6 s.t7 s.t8 = commandOfBytes bs := by
  rw [h.t6, h.t7, h.t8, if_pos (by omega), if_pos (by omega), if_pos hl, matchCommand, commandOfBytes]
  simp only [header_holds h]

/-- `classify` on a verified frame (steps 5 and 6 of R130). -/
theorem classifyDecoded_verified (u : UnrecognizedMessage) (text : List Byte) {bs : List Byte} (hl : 14 ≤ bs.length)
    (hv : verifyChecksum bs = true) : classifyDecoded u text bs =
      { checksumValid := true, commandType := commandOfBytes bs, commandName := commandName (commandOfBytes bs).code.toNat,
        errorMessage := if commandOfBytes bs = .unknown then u.text else none, originalHex := text } := by
  rw [classifyDecoded, if_neg hl.not_gt, if_neg (by simp [hv])]
  rfl

/-- The host maps the result of a decoded frame to the ParseResult of its bytes (steps 3 to 6 of R130). -/
theorem parseResult_frameResult (u : UnrecognizedMessage) {bs : List Byte} {s : State} (h : FrameHolds bs s)
    (hd : s.decErr = .none) (text : List Byte) :
    parseResult u (frameResult s).word text = some (classifyDecoded u text bs) := by
  have hlen := h.len
  have hverify := verify_holds h
  rw [parseResult_word]
  obtain hl | ⟨hl, hv⟩ | ⟨hl, hv, hk⟩ | ⟨hl, hv, hk⟩ := decidingStep_cases s
  · rw [frameResult_lengthError hd hl, classifyDecoded, if_pos (by omega : bs.length < 14)]
    rfl
  · rw [frameResult_checksumError hd hl hv, classifyDecoded, if_neg (by omega : ¬ bs.length < 14),
      if_pos (hverify ▸ hv)]
    rfl
  · have hmatch := matchCommand_holds h (by omega)
    rw [frameResult_recognized hd hl hv hk, classifyDecoded_verified u text (by omega) (hverify ▸ hv), hmatch,
      if_neg (hmatch ▸ hk)]
    rfl
  · have hmatch := (matchCommand_holds h (by omega)).symm.trans hk
    rw [frameResult_unrecognized hd hl hv hk, classifyDecoded_verified u text (by omega) (hverify ▸ hv), if_pos hmatch,
      hmatch]
    rfl

/-- FRAME_END takes RES from the registers that the ODD_LENGTH check leaves (R145). -/
@[simp] theorem closeFrame_res (s : State) : (closeFrame s).res = frameResult (finishText s) := rfl

/-! ### BYTE frames (R136) -/

/-- Pushes leave `DEC_ERR` alone. -/
theorem takeInput_byte_decErr (bs : List Byte) (s : State) : (takeInput .byte bs s).decErr = s.decErr := by
  induction bs generalizing s with
  | nil => rfl
  | cons d bs ih => exact ih (push d s)

/-- The ODD_LENGTH check passes a BYTE frame. -/
theorem finishText_byte (bs : List Byte) (s : State) :
    finishText (deliveredFrame .byte bs s) = deliveredFrame .byte bs s := by
  obtain ⟨-, hmode, -⟩ := takeInput_frame .byte bs (openFrame .byte s)
  exact if_neg (by simp [deliveredFrame, hmode])

/-- A finished BYTE frame holds its bytes and has no decode error. -/
theorem finishText_byte_holds (bs : List Byte) (s : State) :
    FrameHolds bs (finishText (deliveredFrame .byte bs s)) ∧ (finishText (deliveredFrame .byte bs s)).decErr = .none := by
  rw [finishText_byte]
  exact ⟨foldl_push_holds bs (open_holds .byte s), takeInput_byte_decErr bs _⟩

/-- VERIFY of a decoded frame is `verifyChecksum` of the bytes it holds (R149). -/
theorem frameResult_verify_holds {bs : List Byte} {s : State} (h : FrameHolds bs s) (hd : s.decErr = .none) :
    (frameResult s).verify = verifyChecksum bs :=
  (frameResult_of_decoded hd).1.trans (verify_holds h)

/-- The commands of `classify.bytes` and `verify` are a whole BYTE frame and RESULT_READ (30_encoding.md R82). -/
theorem classifyBytesCmds_eq (bs : List Byte) :
    classifyBytesCmds bs = .frameStart .byte :: (bs.map (deliver .byte) ++ [.frameEnd, .resultRead]) := by
  simp [classifyBytesCmds, frameBytesCmds, deliver]

/-- Settles O33: the frame of `verify` holds its bytes, and bit 7 of the word that RESULT_READ gives is VERIFY. -/
theorem verifyBitIsVerifyChecksum : Obligations.VerifyBitIsVerifyChecksum := by
  refine ⟨fun s bs h ho => frameResult_verify_holds h (decErr_of_outcome ho), fun s bs rest hp => ?_⟩
  obtain ⟨hholds, hd⟩ := finishText_byte_holds bs s
  obtain ⟨-, -, -, hbit, -⟩ := (finishedFrame .byte bs s).res.word_fields
  rw [classifyBytesCmds_eq] at hp
  exact ⟨_, _, run_classifiedFrame hp, List.getLast?_concat, hbit.trans (frameResult_verify_holds hholds hd)⟩

/-- Settles O34: a BYTE frame holds its bytes without a decode error, so its result is their classification. -/
theorem byteFramesClassifyLikeTheSource : Obligations.ByteFramesClassifyLikeTheSource := by
  intro u s bs orig rest hp
  obtain ⟨hholds, hd⟩ := finishText_byte_holds bs s
  rw [classifyBytesCmds_eq] at hp
  exact ⟨_, _, run_classifiedFrame hp, rfl, rfl, parseResult_frameResult u hholds hd orig, hd,
    (frameResult_of_decoded hd).2⟩

end Sys2Proof.Machine
end

section
/-! PROOFS. TEXT frames decode as a whole (41_frame.md R139, R141, R144), and are classified as their text is (R152). -/

namespace Sys2Proof.Machine

/-! ### The text as the source reads it (R130 steps 1 and 2, R139) -/

/-- The characters of a text less its spaces (R139, R140). -/
def spaceless (text : List Byte) : List Byte := text.filter (fun c => c ≠ 0x20#8)

/-- A text with a non-hex character has no digits. -/
theorem hexDigits_none {cs : List Byte} (h : ∃ c ∈ cs, hexval c = none) : hexDigits (cs.map upperCase) = none := by
  induction cs with
  | nil => simp at h
  | cons c cs ih =>
    rw [List.map_cons, hexDigits, upperHexDigit_upperCase]
    rcases (List.exists_mem_cons_iff ..).mp h with hc | hcs
    · rw [hc]
    · rw [ih hcs]
      cases hexval c <;> rfl

/-- A text of hex characters has the digit of each. -/
theorem hexDigits_some {cs : List Byte} (h : ∀ c ∈ cs, hexval c ≠ none) :
    hexDigits (cs.map upperCase) = some (cs.filterMap hexval) := by
  induction cs with
  | nil => rfl
  | cons c cs ih =>
    obtain ⟨hc, hcs⟩ := List.forall_mem_cons.mp h
    obtain ⟨v, hv⟩ := Option.ne_none_iff_exists'.mp hc
    rw [List.map_cons, hexDigits, upperHexDigit_upperCase, ih hcs, List.filterMap_cons, hv]

/-- Each hex character is one digit. -/
theorem length_digits {cs : List Byte} (h : ∀ c ∈ cs, hexval c ≠ none) : (cs.filterMap hexval).length = cs.length :=
  List.filterMap_length_eq_length.mpr fun c hc => Option.isSome_iff_ne_none.mpr (h c hc)

/-- Two digits make one byte. -/
theorem length_pairDigits : ∀ ds : List Nibble, (pairDigits ds).length = ds.length / 2
  | [] => rfl
  | [_] => by simp [pairDigits]
  | _ :: _ :: ds => by
    rw [pairDigits, List.length_cons, length_pairDigits ds, List.length_cons, List.length_cons]
    omega

/-- The source's decoding of a text, by its spaceless characters (R139). -/
theorem hexDecode_nonHex {text : List Byte} (h : ∃ c ∈ spaceless text, hexval c = none) :
    hexDecode (normalizeText text) = (.nonHex, []) := by
  have hnone : hexDigits (normalizeText text) = none := hexDigits_none h
  rw [hexDecode, hnone]

theorem hexDecode_odd {text : List Byte} (h : ∀ c ∈ spaceless text, hexval c ≠ none)
    (hodd : (spaceless text).length % 2 = 1) : hexDecode (normalizeText text) = (.oddLength, []) := by
  have hsome : hexDigits (normalizeText text) = some ((spaceless text).filterMap hexval) := hexDigits_some h
  simp only [hexDecode, hsome, length_digits h, hodd, if_true]

theorem hexDecode_even {text : List Byte} (h : ∀ c ∈ spaceless text, hexval c ≠ none)
    (heven : (spaceless text).length % 2 = 0) :
    hexDecode (normalizeText text) = (.none, pairDigits ((spaceless text).filterMap hexval)) := by
  have hsome : hexDigits (normalizeText text) = some ((spaceless text).filterMap hexval) := hexDigits_some h
  simp [hexDecode, hsome, length_digits h, heven]

/-! ### The text as the block reads it (R137, R145) -/

/-- The ODD_LENGTH check leaves a recorded decode error alone. -/
theorem finishText_of_decErr {s : State} (h : s.decErr ≠ .none) : finishText s = s :=
  if_neg fun ⟨_, hd, _⟩ => h hd

/-- It passes a TEXT frame with no digit waiting. -/
theorem finishText_even {ds : List Nibble} {s : State} (h : TextHolds ds s) (heven : ds.length % 2 = 0) :
    finishText s = s :=
  if_neg fun ⟨_, _, hn⟩ => by simp [h.even heven] at hn

/-- It fails a TEXT frame with a digit waiting. -/
theorem finishText_odd {ds : List Nibble} {s : State} (h : TextHolds ds s) (hmode : s.mode = .text)
    (hodd : ds.length % 2 = 1) : (finishText s).decErr = .oddLength := by
  rw [finishText_eq]
  exact if_pos ⟨hmode, h.noErr, (h.odd hodd).1⟩

section
variable {cs : List Byte} (s : State)

/-- A non-hex character fails the frame with NON_HEX (R139). -/
theorem finishText_nonHex (h : ∃ c ∈ spaceless cs, hexval c = none) :
    (finishText (deliveredFrame .text cs s)).decErr = .nonHex := by
  have hd : (deliveredFrame .text cs s).decErr = .nonHex := (text_fold cs [] _ (text_open s)).1 h
  rw [finishText_of_decErr (by simp [hd]), hd]

/-- Without one, the frame holds the digits. -/
theorem deliveredText_holds (h : ∀ c ∈ spaceless cs, hexval c ≠ none) :
    TextHolds ((spaceless cs).filterMap hexval) (deliveredFrame .text cs s) :=
  (text_fold cs [] _ (text_open s)).2 h

/-- An odd number of digits fails the frame with ODD_LENGTH. -/
theorem finishText_oddLength (h : ∀ c ∈ spaceless cs, hexval c ≠ none) (hodd : (spaceless cs).length % 2 = 1) :
    (finishText (deliveredFrame .text cs s)).decErr = .oddLength := by
  obtain ⟨-, hmode, -⟩ := takeInput_frame .text cs (openFrame .text s)
  exact finishText_odd (deliveredText_holds s h) hmode (by rw [length_digits h, hodd])

/-- An even number of digits leaves the frame with the bytes of its digit pairs. -/
theorem finishText_holds (h : ∀ c ∈ spaceless cs, hexval c ≠ none) (heven : (spaceless cs).length % 2 = 0) :
    (finishText (deliveredFrame .text cs s)).decErr = .none ∧
    FrameHolds (pairDigits ((spaceless cs).filterMap hexval)) (finishText (deliveredFrame .text cs s)) := by
  have ht := deliveredText_holds s h
  rw [finishText_even ht (by rw [length_digits h, heven])]
  exact ⟨ht.noErr, ht.frame⟩

end

/-! ### Whole TEXT frames -/

/-- A text has a non-hex character, or an odd or an even number of digits. -/
theorem spaceless_cases (text : List Byte) :
    (∃ c ∈ spaceless text, hexval c = none) ∨
    ((∀ c ∈ spaceless text, hexval c ≠ none) ∧ (spaceless text).length % 2 = 1) ∨
    ((∀ c ∈ spaceless text, hexval c ≠ none) ∧ (spaceless text).length % 2 = 0) := by
  by_cases h : ∃ c ∈ spaceless text, hexval c = none
  · exact .inl h
  · push Not at h
    obtain heven | hodd := Nat.mod_two_eq_zero_or_one (spaceless text).length
    · exact .inr (.inr ⟨h, heven⟩)
    · exact .inr (.inl ⟨h, hodd⟩)

/-- The host maps the result of a frame with a decode error to the ParseResult of step 2 of `classify` (R130). -/
theorem parseResult_decodeError (u : UnrecognizedMessage) {s : State} (hd : s.decErr ≠ .none) (text : List Byte) :
    parseResult u (frameResult s).word text = some (failedParse (decodeErrorMessage s.decErr.code.toNat) text) := by
  rw [parseResult_word, frameResult_decodeError hd]
  rfl

/-- The host maps the result of a TEXT frame to the ParseResult of its text. -/
theorem parseResult_text (u : UnrecognizedMessage) (text : List Byte) (s : State) :
    parseResult u (finishedFrame .text text s).res.word text = some (classify u text) := by
  rw [finishedFrame, closeFrame_res, classify]
  obtain h | ⟨h, hodd⟩ | ⟨h, heven⟩ := spaceless_cases text
  · have hd := finishText_nonHex s h
    rw [parseResult_decodeError u (by simp [hd]), hexDecode_nonHex h, hd]
  · have hd := finishText_oddLength s h hodd
    rw [parseResult_decodeError u (by simp [hd]), hexDecode_odd h hodd, hd]
  · obtain ⟨hd, hholds⟩ := finishText_holds s h heven
    rw [parseResult_frameResult u hholds hd, hexDecode_even h heven]

/-- A frame leaves ACC and the error record alone. -/
theorem finishedFrame_others (m : Mode) (ds : List Byte) (s : State) :
    (finishedFrame m ds s).acc = s.acc ∧ (finishedFrame m ds s).opErr = s.opErr ∧
    (finishedFrame m ds s).errCause = s.errCause := by
  obtain ⟨hacc, -, -, hop, hcause⟩ := takeInput_frame m ds (openFrame m s)
  rw [finishedFrame, closeFrame_eq]
  exact ⟨hacc, hop, hcause⟩

/-- Settles O35: the commands of `classify` are a whole TEXT frame, and its result is the ParseResult of the text. -/
theorem textFramesClassifyLikeTheSource : Obligations.TextFramesClassifyLikeTheSource := by
  intro u s text rest hp
  obtain ⟨hacc, hop, hcause⟩ := finishedFrame_others .text text s
  exact ⟨_, _, run_classifiedFrame (m := .text) hp, rfl, rfl, parseResult_text u text s, hacc, hop, hcause⟩

/-- Settles O36: without a non-hex character the parity decides, and an even number below 28 gives fewer than 14 bytes. -/
theorem shortTextsFailByParityThenLength : Obligations.ShortTextsFailByParityThenLength := by
  intro s text rest hchars hp
  have h : ∀ c ∈ spaceless text, hexval c ≠ none := by
    intro c hc
    obtain ⟨hmem, hne⟩ := List.mem_filter.mp hc
    exact (hchars c hmem).resolve_left (of_decide_eq_true hne)
  refine ⟨_, run_finishedFrame (m := .text) hp, fun hodd => ?_, fun heven hlen => ?_⟩
  · have hd := finishText_oddLength s h hodd
    have hres : (finishedFrame .text text s).res = _ := frameResult_decodeError (by simp [hd])
    rw [setOutside_res, hres]
    exact ⟨rfl, hd⟩
  · obtain ⟨hd, hholds⟩ := finishText_holds s h heven
    have hbytes : (finishText (deliveredFrame .text text s)).len.toNat < 14 := by
      have hdigits := length_digits h
      have hl : (spaceless text).length < 28 := hlen
      rw [hholds.len, length_pairDigits]
      omega
    rw [setOutside_res, finishedFrame, closeFrame_res, frameResult_lengthError hd hbytes]

/-! ### A TEXT frame with other words among its characters (R139) -/

/-- The operands of a sequence come from its parts in order. -/
theorem charOperands_append (ws vs : List Word) : charOperands (ws ++ vs) = charOperands ws ++ charOperands vs :=
  List.filterMap_append

/-- A FRAME_CHAR word has its operand. -/
theorem charOperands_of_frameChar {w : Word} {c : Byte} (h : decode w = .ok (.frameChar c)) : charOperands [w] = [c] := by
  simp [charOperands, h]

/-- Every other word has none. -/
theorem charOperands_of_other {w : Word} (h : ∀ c, decode w ≠ .ok (.frameChar c)) : charOperands [w] = [] := by
  unfold charOperands
  cases hd : decode w with
  | illegal why => simp [hd]
  | ok i =>
    cases i with
    | frameChar c => exact absurd hd (h c)
    | _ => simp [hd]

/-- In an open TEXT frame, a word other than FRAME_START and FRAME_END does to the frame unit what its character does, if it
is a FRAME_CHAR, and nothing if not: a FRAME_BYTE is refused (R135). -/
theorem performWord_char {w : Word} {s t : State} (hphase : s.phase = .collect) (hmode : s.mode = .text)
    (hend : decode w ≠ .ok .frameEnd) (hstart : ∀ m, decode w ≠ .ok (.frameStart m)) (hw : performWord w s = .next t) :
    frameUnit t = frameUnit (takeInput .text (charOperands [w]) s) := by
  obtain ⟨i, hd, he⟩ | ⟨why, hd, rfl⟩ := performWord_next_cases hw
  · cases i with
    | frameEnd => exact absurd hd hend
    | frameStart m => exact absurd hd (hstart m)
    | frameChar c =>
      cases (exec_frameChar hphase hmode rfl).symm.trans he
      rw [charOperands_of_frameChar hd]
      rfl
    | frameByte d =>
      have hc : refusalCause (.frameByte d) s = some .mode :=
        refusalCause_deliver_otherMode (m := .byte) hphase (by simp [hmode]) d
      cases (exec_of_refused hc).symm.trans he
      rw [charOperands_of_other (by simp [hd])]
      rfl
    | _ =>
      rw [charOperands_of_other (by simp [hd])]
      exact performWord_frameUnit (by simp only [isFrameWord, hd]; rfl) hw
  · rw [charOperands_of_other (by simp [hd])]
    rfl

/-- Input leads from equal frame units to equal frame units. -/
theorem takeInput_frameUnit_congr (m : Mode) (ds : List Byte) {s s' : State} (h : frameUnit s = frameUnit s') :
    frameUnit (takeInput m ds s) = frameUnit (takeInput m ds s') := by
  induction ds generalizing s s' with
  | nil => exact h
  | cons d ds ih => exact ih (performed_frameUnit_congr _ h)

/-- What a sequence of input does, part by part. -/
theorem takeInput_append (m : Mode) (cs ds : List Byte) (s : State) :
    takeInput m (cs ++ ds) s = takeInput m ds (takeInput m cs s) :=
  List.foldl_append

/-- A run over words other than FRAME_START and FRAME_END gives an open TEXT frame the characters of its FRAME_CHAR words. -/
theorem run_chars (ws : List Word) {s : State} {rest : List PortEvent} (hphase : s.phase = .collect)
    (hmode : s.mode = .text) (hn : ∀ w ∈ ws, decode w ≠ .ok .frameEnd ∧ ∀ m, decode w ≠ .ok (.frameStart m))
    (hp : s.port = commands ws ++ rest) :
    ∃ t, run ws.length s = .next t ∧ t.port = rest ∧
      frameUnit t = frameUnit (takeInput .text (charOperands ws) s) := by
  induction ws generalizing s with
  | nil => exact ⟨s, run_zero s, hp, rfl⟩
  | cons w ws ih =>
    obtain ⟨⟨hend, hstart⟩, hws⟩ := List.forall_mem_cons.mp hn
    obtain ⟨u, hstep, hperf, hport⟩ := step_command hp
    have hu : frameUnit u = frameUnit (takeInput .text (charOperands [w]) s) :=
      (performWord_char (s := setPort (commands ws ++ rest) s) hphase hmode hend hstart hperf).trans
        (takeInput_frameUnit_congr _ _ rfl)
    obtain ⟨-, hmode', hphase', -⟩ := takeInput_frame .text (charOperands [w]) s
    obtain ⟨t, hrun, hrest, ht⟩ := ih ((congrArg FrameUnit.phase hu).trans (hphase'.trans hphase))
      ((congrArg FrameUnit.mode hu).trans (hmode'.trans hmode)) hws hport
    refine ⟨t, (run_succ _ hstep).trans hrun, hrest, ?_⟩
    calc frameUnit t
      _ = frameUnit (takeInput .text (charOperands ws) u) := ht
      _ = frameUnit (takeInput .text (charOperands ws) (takeInput .text (charOperands [w]) s)) :=
          takeInput_frameUnit_congr _ _ hu
      _ = frameUnit (takeInput .text (charOperands (w :: ws)) s) := by
          rw [← takeInput_append, ← charOperands_append]
          rfl

/-- What the frame registers hold depends on the frame unit only. -/
theorem FrameHolds.congr {bs : List Byte} {s t : State} (h : FrameHolds bs s) (hu : frameUnit t = frameUnit s) :
    FrameHolds bs t := by
  obtain ⟨a, o, c, p, q, rfl⟩ := exists_eq_of_frameUnit_eq hu
  exact frameHolds_congr h rfl rfl rfl rfl rfl rfl rfl rfl

/-- From FRAME_START TEXT to FRAME_END, with neither between them, the frame unit is that of the characters alone. -/
theorem run_text {s : State} {ws : List Word} {rest : List PortEvent}
    (hn : ∀ w ∈ ws, decode w ≠ .ok .frameEnd ∧ ∀ m, decode w ≠ .ok (.frameStart m))
    (hp : s.port = commands (encode (.frameStart .text) :: (ws ++ [encode .frameEnd])) ++ rest) :
    ∃ t, run (ws.length + 2) s = .next t ∧ t.port = rest ∧
      frameUnit t = frameUnit (finishedFrame .text (charOperands ws) s) := by
  have hport : s.port = .command (encode (.frameStart .text)) :: (commands ws ++ .command (encode .frameEnd) :: rest) := by
    simpa [commands] using hp
  obtain ⟨u, hrun, hu, hunit⟩ := run_chars ws (rest := .command (encode .frameEnd) :: rest)
    (s := setOutside (commands ws ++ .command (encode .frameEnd) :: rest) (s.resps ++ [0]) (openFrame .text s))
    rfl rfl hn rfl
  have hunit' : frameUnit u = frameUnit (deliveredFrame .text (charOperands ws) s) :=
    hunit.trans (takeInput_frameUnit_congr _ _ rfl)
  obtain ⟨-, -, hphase, -⟩ := takeInput_frame .text (charOperands ws) (openFrame .text s)
  have hc : refusalCause .frameEnd u = none :=
    if_neg (not_not.mpr ((congrArg FrameUnit.phase hunit').trans hphase))
  refine ⟨setOutside rest (u.resps ++ [0]) (closeFrame u), ?_, rfl, closeFrame_frameUnit_congr hunit'⟩
  calc run (ws.length + 2) s
    _ = run (ws.length + 1) _ := run_succ _ (step_performed hport rfl)
    _ = run 1 u := run_add _ 1 hrun
    _ = _ := run_succ 0 (step_performed hu hc)

/-- Settles O28: FRAME_END finds the frame unit of the characters, and leaves it with what the ODD_LENGTH check gives. -/
theorem textDecodesAsAWhole : Obligations.TextDecodesAsAWhole := by
  intro s ws rest hn hp
  obtain ⟨t, hrun, hrest, hunit⟩ := run_text hn hp
  have hd : t.decErr = (finishText (deliveredFrame .text (charOperands ws) s)).decErr := congrArg FrameUnit.decErr hunit
  refine ⟨t, hrun, hrest, fun h => hd.trans (finishText_nonHex s h),
    fun h hodd => hd.trans (finishText_oddLength s h hodd), fun h heven => ?_⟩
  obtain ⟨hnone, hholds⟩ := finishText_holds s h heven
  have hclosed : FrameHolds (pairDigits ((spaceless (charOperands ws)).filterMap hexval))
      (finishedFrame .text (charOperands ws) s) := frameHolds_congr hholds rfl rfl rfl rfl rfl rfl rfl rfl
  exact ⟨hd.trans hnone, hclosed.congr hunit⟩

end Sys2Proof.Machine
end

section
/-! PROOFS. The command table (42_matcher.md R172 to R174), the vector ROM (R180 to R182), and that every vector is
recognized (R183). -/

namespace Sys2Proof.Machine

/-! ### The command table (R172, R174) -/

/-- The rows are disjoint: the lookup of a row's own triple ends at that row, so the order of the tests does not matter. -/
theorem lookupTriple_of_mem {row : (Byte × Byte × Byte) × CommandType} (h : row ∈ commandTable) :
    lookupTriple row.1 = row.2 := by
  revert row
  decide

theorem lookupTriple_of_not_mem {b : Byte × Byte × Byte} (h : b ∉ commandTable.map Prod.fst) :
    lookupTriple b = .unknown := by
  have hnone : commandTable.find? (fun row => row.1 == b) = none :=
    List.find?_eq_none.mpr fun row hrow hb => h (List.mem_map.mpr ⟨row, hrow, eq_of_beq hb⟩)
  rw [lookupTriple, hnone]

/-- A command other than Unknown comes from a row of the table. -/
theorem lookupTriple_eq_iff {k : CommandType} (hk : k ≠ .unknown) (b : Byte × Byte × Byte) :
    lookupTriple b = k ↔ (b, k) ∈ commandTable := by
  refine ⟨fun h => ?_, lookupTriple_of_mem⟩
  by_cases hb : b ∈ commandTable.map Prod.fst
  · obtain ⟨row, hrow, rfl⟩ := List.mem_map.mp hb
    obtain rfl : row.2 = k := (lookupTriple_of_mem hrow).symm.trans h
    exact hrow
  · exact absurd (h.symm.trans (lookupTriple_of_not_mem hb)) hk

theorem commandTable_row_unique {k : CommandType} (hk : k ≠ .unknown) :
    ∃ row ∈ commandTable, ∀ row' ∈ commandTable, row'.2 = k ↔ row' = row := by
  cases k with
  | unknown => exact absurd rfl hk
  | _ => decide

/-- Settles O38: a triple of the list is looked up to its own row, and any other ends at the default. -/
theorem matchFunctionIsTheTable : Obligations.MatchFunctionIsTheTable :=
  ⟨fun _ _ _ => rfl, rfl, rfl, rfl, rfl, rfl, fun _ _ _ h => congrArg CommandType.code (lookupTriple_of_not_mem h)⟩

/-- Settles O39: with a header match the matcher is the lookup, and each command has one row of the table. -/
theorem eachCommandHasOneTriple : Obligations.EachCommandHasOneTriple := by
  intro k hk
  obtain ⟨row, hrow, hunique⟩ := commandTable_row_unique hk
  obtain rfl : row.2 = k := (hunique row hrow).mpr rfl
  refine ⟨row.1, fun b => (lookupTriple_eq_iff hk b).trans ⟨fun h => congrArg Prod.fst ((hunique _ h).mp rfl), ?_⟩⟩
  rintro rfl
  exact hrow

/-! ### The vector ROM (R180 to R182) -/

/-- The number that follows an index, in a width that holds it. -/
theorem toNat_setWidth_add_one (i : Nibble) {w : Nat} (hw : 5 ≤ w) : (i.setWidth w + 1).toNat = i.toNat + 1 := by
  have hpow : 2 ^ 5 ≤ 2 ^ w := Nat.pow_le_pow_right two_pos hw
  have hone : (1 : BitVec w).toNat = 1 := BitVec.toNat_one (by omega)
  have hwide : (i.setWidth w).toNat = i.toNat := BitVec.toNat_setWidth_of_le (by omega)
  rw [BitVec.toNat_add_of_lt (by omega), hwide, hone]

/-- Item 14 is the command code (R181). -/
theorem vecRom_commandCode (i : Nibble) : (vecRom i 14).toNat = i.toNat + 1 :=
  toNat_setWidth_add_one i (by decide)

/-- Item 15 is the length (R181). -/
theorem vecRom_length (i : Nibble) : vecRom i 15 = 0x0E#8 := rfl

/-- Every index that VEC_READ accepts has its vector (R180, R182). -/
theorem vector_mem {i : Nibble} (hi : i.toNat < 5) : vector i ∈ vectors := by
  rw [vector, List.getD_eq_getElem _ _ hi]
  exact List.getElem_mem hi

/-- Each vector is a frame long enough to classify, with a valid checksum (R180). -/
theorem vectors_length : ∀ fb ∈ vectors, fb.length = 14 := by decide
theorem vectors_verify : ∀ fb ∈ vectors, verifyChecksum fb = true := by decide +kernel

theorem vector_length {i : Nibble} (hi : i.toNat < 5) : (vector i).length = 14 := vectors_length _ (vector_mem hi)
theorem vector_verify {i : Nibble} (hi : i.toNat < 5) : verifyChecksum (vector i) = true := vectors_verify _ (vector_mem hi)

/-- Items 0 to 13 are the frame (R181). -/
theorem vecRom_frame {i : Nibble} (hi : i.toNat < 5) :
    (List.range 14).map (fun j => vecRom i (BitVec.ofNat 4 j)) = vector i := by
  refine List.ext_getElem (by simp [vector_length hi]) fun j hj hj' => ?_
  have hlt : j < 14 := by simpa using hj
  have hmod : (BitVec.ofNat 4 j).toNat = j := Nat.mod_eq_of_lt (by omega)
  simp only [List.getElem_map, List.getElem_range, vecRom, hmod, if_pos (Nat.le_of_lt_succ hlt)]
  exact List.getD_eq_getElem _ _ hj'

/-- Settles O41: items 0 to 13 are the vectors of the source, byte for byte. -/
theorem vectorRomContents : Obligations.VectorRomContents :=
  ⟨vecRom_frame (i := 0) (by decide), vecRom_frame (i := 1) (by decide), vecRom_frame (i := 2) (by decide),
    vecRom_frame (i := 3) (by decide), vecRom_frame (i := 4) (by decide),
    fun i _ => ⟨vecRom_commandCode i, congrArg BitVec.toNat (vecRom_length i)⟩,
    fun _ hi => ⟨vector_length hi, vector_verify hi⟩⟩

/-- Settles O40: the refusal by its cause, the response of a read in range, and the two items that are computed. -/
theorem vecReadReturnsOneItem : Obligations.VecReadReturnsOneItem :=
  ⟨fun _ _ => rfl, illegalExactlyWhen_data (by decide), fun _ _ _ hi => exec_of_refused (if_pos hi),
    fun _ _ _ hi => exec_of_performed (if_neg hi.not_ge), fun i _ => ⟨vecRom_length i, vecRom_commandCode i⟩, rfl, rfl⟩

/-! ### The vectors classified (R183) -/

/-- A command other than Unknown needs the header. -/
theorem header_of_commandOfBytes {bs : List Byte} (h : commandOfBytes bs ≠ .unknown) : bs.take 6 = Config.header := by
  by_contra hh
  exact h (if_neg hh)

/-- A verified frame of a known command is recognized (steps 5 and 6 of R130). -/
theorem frameResult_of_command {bs : List Byte} {s : State} (h : FrameHolds bs s) (hd : s.decErr = .none)
    (hl : 14 ≤ bs.length) (hv : verifyChecksum bs = true) (hk : commandOfBytes bs ≠ .unknown) : frameResult s =
    { outcome := .recognized, chkValid := true, cmd := commandOfBytes bs, verify := true, decDetail := .none,
      hdrMatch := true } := by
  have hlen : 14 ≤ s.len.toNat := by
    have := h.len
    omega
  have hmatch := matchCommand_holds h (by omega)
  have hheader : frameHeader s = true := (header_holds h).mpr (header_of_commandOfBytes hk)
  rw [frameResult_recognized hd hlen ((verify_holds h).trans hv) (hmatch ▸ hk), hmatch, hheader]

/-- The RES word of a recognized command (R33). -/
theorem recognized_word (k : CommandType) : Result.word
    { outcome := .recognized, chkValid := true, cmd := k, verify := true, decDetail := .none, hdrMatch := true } =
    0x048C#16 ||| (k.code <<< 4) := by
  cases k <;> decide

/-- Vector `i` holds the command with the code `i + 1` (R180). -/
theorem commandOfBytes_vector {i : Nibble} (hi : i.toNat < 5) :
    (commandOfBytes (vector i)).code = i.setWidth 16 + 1 := by
  revert i
  decide

theorem commandOfBytes_vector_toNat {i : Nibble} (hi : i.toNat < 5) :
    (commandOfBytes (vector i)).code.toNat = i.toNat + 1 := by
  rw [commandOfBytes_vector hi, toNat_setWidth_add_one i (by decide)]

theorem commandOfBytes_vector_ne_unknown {i : Nibble} (hi : i.toNat < 5) : commandOfBytes (vector i) ≠ .unknown := by
  intro h
  have hcode := commandOfBytes_vector_toNat hi
  rw [h] at hcode
  exact absurd hcode.symm (Nat.succ_ne_zero _)

/-- Settles O42: the frame holds the vector's bytes, which are a verified frame of a known command. -/
theorem everyVectorIsRecognized : Obligations.EveryVectorIsRecognized := by
  intro i s rest hi hp
  rw [classifyBytesCmds_eq] at hp
  have hrun := run_classifiedFrame hp
  rw [vector_length hi] at hrun
  obtain ⟨hholds, hd⟩ := finishText_byte_holds (vector i) s
  have hres : (finishedFrame .byte (vector i) s).res = _ := frameResult_of_command hholds hd (vector_length hi).ge
    (vector_verify hi) (commandOfBytes_vector_ne_unknown hi)
  refine ⟨_, hrun, List.getLast?_concat, ?_⟩
  rw [setOutside_res, hres]
  exact ⟨(recognized_word _).trans (by rw [commandOfBytes_vector hi]), rfl, rfl, commandOfBytes_vector_toNat hi, rfl, rfl⟩

end Sys2Proof.Machine
end

section
/-! PROOFS. The control commands and the reserved words (43_control.md R200 to R204), and the layout of the STATUS word
(10_state.md R32). -/

namespace Sys2Proof.Machine

/-! ### The STATUS word (R32) -/

/-- The mode bit is the flag of a TEXT frame (R23). -/
theorem Mode.bit_eq_bitWord (m : Mode) : m.bit = bitWord (decide (m = .text)) := by cases m <;> rfl

/-- The codes of PHASE and of ERR_CAUSE fit their fields (R24, R221). -/
theorem Phase.code_lt (p : Phase) : p.code.toNat < 2 ^ 2 := by cases p <;> decide
theorem ErrCause.code_lt (c : ErrCause) : c.code.toNat < 2 ^ 3 := by cases c <;> decide

/-- The STATUS word holds each code and flag at its bits: every field ends where the next begins, so no two overlap (R32). -/
theorem statusWord_fields (s : State) :
    (statusWord s).extractLsb' 0 2 = s.phase.code.setWidth 2 ∧
    (statusWord s).getLsbD 2 = decide (s.mode = .text) ∧
    (statusWord s).getLsbD 3 = s.opErr ∧
    (statusWord s).extractLsb' 4 3 = s.errCause.code.setWidth 3 ∧
    (statusWord s).getLsbD 7 = s.nibPend ∧
    (statusWord s).extractLsb' 8 4 = s.len ∧
    (statusWord s).extractLsb' 12 2 = s.decErr.code.setWidth 2 ∧
    (statusWord s).getLsbD 14 = s.hdrOk ∧
    (statusWord s).getLsbD 15 = false := by
  have hp := getElem_of_lt_two_pow s.phase.code_lt
  have hc := getElem_of_lt_two_pow s.errCause.code_lt
  have hd := getElem_of_lt_two_pow s.decErr.code_lt
  refine ⟨?_, ?_, ?_, ?_, ?_, ?_, ?_, ?_, ?_⟩
  · ext i hi
    interval_cases i <;> simp [statusWord]
  · simp [statusWord, Mode.bit_eq_bitWord, hp]
  · simp [statusWord, Mode.bit_eq_bitWord, hp]
  · ext i hi
    interval_cases i <;> simp [statusWord, Mode.bit_eq_bitWord, hp]
  · simp [statusWord, Mode.bit_eq_bitWord, hp, hc]
  · ext i hi
    interval_cases i <;> simp [statusWord, Mode.bit_eq_bitWord, hp, hc]
  · ext i hi
    interval_cases i <;> simp [statusWord, Mode.bit_eq_bitWord, hp, hc]
  · simp [statusWord, Mode.bit_eq_bitWord, hp, hc, hd]
  · simp [statusWord, Mode.bit_eq_bitWord, hp, hc, hd]

/-! ### The commands -/

/-- The step at an illegal word, reserved or rejected by the decoder, is the refusal with ILLEGAL (R204). -/
theorem step_of_not_legalWord {w : Word} {s : State} {rest : List PortEvent} (hw : legalWord w = false)
    (hp : s.port = .command w :: rest) : step s = .next (refusedWith .illegal (setPort rest s)) :=
  (takeEvent_command hp).trans (performWord_of_not_legalWord hw _)

/-- Settles O12: both kinds of illegal word end in the one refusal, and 0xC000 is of the first kind. -/
theorem reservedWordsAreRefused : Obligations.ReservedWordsAreRefused :=
  ⟨fun _ _ => exec_of_refused rfl, fun _ hop => ⟨_, decode_of_reserved hop⟩,
    fun _ _ _ hw hp => step_of_not_legalWord hw hp, _, step_of_not_legalWord (by decide) rfl, by decide⟩

/-- The one legal word of NOP (R76): the other fields of a word are 0 when it is legal. -/
theorem eq_zero_of_legalWord_nop {w : Word} (hop : opField w = 0) (hw : legalWord w = true) : w = 0x0000#16 := by
  have hfields : subField w = 0 ∧ dataField w = 0 := by simpa [LegalFields, hop] using (legalWord_iff_fields w).mp hw
  exact (word_eq_iff_fields w 0).mpr ⟨hop, hfields⟩

/-- Settles O43: NOP gives its response, and no other word of its row is legal. -/
theorem nopChangesNothing : Obligations.NopChangesNothing :=
  ⟨rfl, illegalExactlyWhen_plain (by decide), fun _ => eq_zero_of_legalWord_nop, fun _ => rfl⟩

/-- FRAME_BYTE with no frame open is refused with SEQUENCE, and the command after it finds the refusal recorded. -/
theorem run_refused_frameByte {d : Byte} {i : Instr} {s t : State} (hs : s.phase ≠ .collect)
    (hp : s.port = issued [.frameByte d, i]) (ht : exec i (setPort [] (refusedWith .sequence s)) = .next t) :
    run 2 s = .next t := by
  calc run 2 s
    _ = run 1 (refusedWith .sequence (setPort (issued [i]) s)) :=
      run_succ 1 ((step_encode hp).trans (exec_of_refused (if_pos hs)))
    _ = .next t := run_succ 0 ((step_encode rfl).trans ht)

/-- Settles O44: each field of STATUS is its code at its bits, and the codes are those of R24, R25 and R221. -/
theorem statusReadReturnsTheStatusWord : Obligations.StatusReadReturnsTheStatusWord := by
  refine ⟨rfl, illegalExactlyWhen_plain (by decide), fun s => ⟨statusWord s, exec_read rfl s, ?_⟩,
    ⟨_, run_succ 0 (step_performed (i := .statusRead) rfl rfl), by decide⟩, _,
    run_refused_frameByte (by decide) rfl rfl, by decide⟩
  obtain ⟨hphase, hmode, hop, hcause, hnib, hlen, hdec, hhdr, hzero⟩ := statusWord_fields s
  refine ⟨hphase.trans ?_, ?_, hop, hcause.trans ?_, hnib, hlen, hdec.trans ?_, hhdr, hzero⟩
  · cases s.phase <;> rfl
  · rw [hmode, decide_eq_true_iff]
  · cases s.errCause <;> rfl
  · cases s.decErr <;> rfl

/-- With nothing recorded there is nothing to clear (R203). -/
theorem clearErrorRecord_of_inv {s : State} (h : Inv s) (ho : s.opErr = false) : clearErrorRecord s = s := by
  rw [clearErrorRecord, ← h.errorRecord.mp ho, ← ho]

/-- Settles O45: the next state is the definition's, and with `OP_ERR` 0 the invariant has the record clear already. -/
theorem clearErrClearsTheErrorRecord : Obligations.ClearErrClearsTheErrorRecord := by
  refine ⟨rfl, illegalExactlyWhen_plain (by decide), fun _ => rfl, fun s h ho => ?_, _,
    run_refused_frameByte (by decide) rfl rfl, by decide⟩
  calc exec .clearErr s
    _ = .next (respond 0 (clearErrorRecord s)) := rfl
    _ = .next (respond 0 s) := by rw [clearErrorRecord_of_inv h ho]

end Sys2Proof.Machine
end

section
/-! PROOFS. The refusal of a command, and the error record of one that is not refused (60_exceptions.md R222). -/

namespace Sys2Proof.Machine

/-- Settles O10: a command with a cause against it is refused with that cause, and one without is performed, which leaves the
error record to CLEAR_ERR. -/
theorem refusalChangesOnlyTheErrorRecord : Obligations.RefusalChangesOnlyTheErrorRecord := by
  intro i s
  constructor
  · intro c hc
    exact exec_of_refused hc
  · intro hc hi
    exact ⟨respond (responseWord i s) (performed i s), exec_of_performed hc, performed_record hi s⟩

end Sys2Proof.Machine
end

section
/-! PROOFS. Reset as an event of the port, and waiting with nothing at the port (70_reset_and_hazards.md R250, R251, R262). -/

namespace Sys2Proof.Machine

theorem takeEvent_nil {s : State} (h : s.port = []) : takeEvent s = .next s := by
  simp only [takeEvent, h]

/-- Reset leaves nothing of the old registers: only the port and the responses given come from the state before (log entry 4). -/
theorem applyReset_setPort (rest : List PortEvent) (s : State) :
    applyReset (setPort rest s) = { State.reset with port := rest, resps := s.resps } := rfl

/-- Settles O14: the reset event leaves the port, and what remains of the state is the reset values and the responses. -/
theorem resetEventRestoresEveryRegister : Obligations.ResetEventRestoresEveryRegister := by
  intro s rest hp
  calc step s
    _ = .next (applyReset (setPort rest s)) := takeEvent_reset hp
    _ = .next { State.reset with port := rest, resps := s.resps } :=
      congrArg Host.Outcome.next (applyReset_setPort rest s)

/-- Settles O15: an empty port gives the block no event to take. -/
theorem nothingHappensWithoutAnEvent : Obligations.NothingHappensWithoutAnEvent :=
  fun _ hp => takeEvent_nil hp

end Sys2Proof.Machine
end
